-- ==== Sys2Proof/Word.lean ====
section
/-! DEFINITION. The word types of the block: queue words (spec/00_scope.md R6, W = 32), command words
(spec/30_encoding.md R60, 4 + W bits) and micro-program positions (spec/10_state.md R13, 3 bits). -/

namespace Sys2Proof

/-- A word of a queue, of `CNT` and of `SR`: `W = 32` bits (R6, decision D1 of the spec). -/
abbrev Word := BitVec 32

/-- A host command word, format H: `op` in bits 35..32, `arg` in bits 31..0 (R60). -/
abbrev CmdWord := BitVec 36

/-- A value of `PHASE`, which is also the encoding of the micro-step taken next, format U (R13, R64). -/
abbrev PhaseCode := BitVec 3

end Sys2Proof
end

