-- ==== Sys2Proof/Config.lean ====
section
/-! DEFINITION. What an implementation fixes (spec/00_scope.md R6, the parameters marked OPEN) and the free values
(spec/93_implementation_defined.md U5, U6, U10). The constants marked `opaque` have no body: nothing can be proved of
their value, so a theorem that mentions one holds whatever it is (log 1, log 2). -/

namespace Sys2Proof

/-- A mode, always one of 1, 2, 3 (R11, R59): the value 0 of the two bits is never held (log 19). -/
inductive Mode where
  | one
  | two
  | three
  deriving DecidableEq, Repr, Inhabited

/-- The mode as the number it stands for: the count of mode bits (R59). -/
def Mode.toNat : Mode → Nat
  | .one => 1
  | .two => 2
  | .three => 3

/-- `MODE[1:0]`, the mode as the two bits of the register (R11). -/
def Mode.bits (m : Mode) : BitVec 2 := BitVec.ofNat 2 m.toNat

/-- A natural number or infinity: `READY_BUDGET` and the register `RDY` (R6, R16). -/
inductive Budget where
  | finite (n : Nat)
  | unbounded
  deriving DecidableEq, Repr, Inhabited

/-- `Budget.atMost a b`: `a ≤ b`, with infinity above every number. -/
def Budget.atMost : Budget → Budget → Bool
  | _, .unbounded => true
  | .finite a, .finite b => a ≤ b
  | .unbounded, .finite _ => false

/-- Who takes the next step (R5, R48): the host, the sequencer, or a second, unserialised host context (R127). -/
inductive Agent where
  | host
  | sequencer
  | foreign
  deriving DecidableEq, Repr, Inhabited

/-- The parameters of R6 that the spec leaves OPEN. No step changes them. -/
structure Params where
  /-- `INQ_DEPTH`, capacity of the input queue. -/
  inqDepth    : Nat
  /-- `OUTQ_DEPTH`, capacity of the output queue. -/
  outqDepth   : Nat
  /-- `SENTINEL`, the known-invalid output word (R57). -/
  sentinel    : Word
  /-- `READY_BUDGET`, samples found high that the ready wait tolerates. -/
  readyBudget : Budget
  /-- `POLL_BUDGET`, how many POLLs READ issues before it times out (R120). -/
  pollBudget  : Nat
  deriving DecidableEq, Repr

/-- What the environment decides for the coming step (log 2): every value here is free. -/
structure Env where
  /-- The agent that takes the step (R48). -/
  turn   : Agent
  /-- The level a sample of `DATA` takes where nothing constrains it (R18, R26). -/
  data   : Bool
  /-- Whether the chip falls asleep, if the step finds and leaves the clock high (R28). -/
  sleeps : Bool
  /-- The conversion result the chip has for the train after the one that ends in this step (R24, R27). -/
  conv   : BitVec 24
  /-- A word no rule gives: `CNT` after a decrement of 0 (R110 (c), log 5), the value of a response that has none (log 26). -/
  free   : Word
  deriving DecidableEq, Repr

/-- Free value: the agent of each step (log 3). -/
opaque Config.turnAt : Nat → Agent
/-- Free value: the level of the data line at each step (log 2). -/
opaque Config.dataAt : Nat → Bool
/-- Free value: whether the chip falls asleep, where R28 lets it (log 10). -/
opaque Config.sleepAt : Nat → Bool
/-- Free value: the conversion results of the chip (log 7). -/
opaque Config.conversionAt : Nat → BitVec 24
/-- Free value: a word no rule gives (logs 5 and 26). -/
opaque Config.wordAt : Nat → Word
/-- Open: whether the chip keeps the contract of R25 to R28 (log 7). -/
opaque Config.chipConforms : Bool
/-- Open: `INQ_DEPTH - 1` (R6: `INQ_DEPTH ≥ 1`). -/
opaque Config.inqSpare : Nat
/-- Open: `OUTQ_DEPTH - 1` (R6: `OUTQ_DEPTH ≥ 1`). -/
opaque Config.outqSpare : Nat
/-- Open: `POLL_BUDGET - 1` (R6: `POLL_BUDGET ≥ 1`). -/
opaque Config.pollSpare : Nat
/-- Open: the sentinel, before `Config.sentinel` keeps it in the range of R57. -/
opaque Config.sentinelRaw : Word
/-- Open: `READY_BUDGET` (R6). -/
opaque Config.readyBudget : Budget

/-- `SENTINEL`: any word from `2^27` up (R57); every such word is the value of some `sentinelRaw`. -/
def Config.sentinel : Word :=
  if 2 ^ 27 ≤ Config.sentinelRaw.toNat then Config.sentinelRaw else 0x8000000

/-- The parameters of this machine, each within the constraint of R6. -/
def Config.params : Params where
  inqDepth    := Config.inqSpare + 1
  outqDepth   := Config.outqSpare + 1
  sentinel    := Config.sentinel
  readyBudget := Config.readyBudget
  pollBudget  := Config.pollSpare + 1

/-- The environment's choices number `n`. -/
def Env.draw (n : Nat) : Env where
  turn   := Config.turnAt n
  data   := Config.dataAt n
  sleeps := Config.sleepAt n
  conv   := Config.conversionAt n
  free   := Config.wordAt n

end Sys2Proof
end

