-- ==== Sys2Proof/Syntax.lean ====
section
/-! DEFINITION. The instructions of spec/opcode_table.json, one constructor per row: the ten host commands of format H
(spec/30_encoding.md R61) and the six micro-steps of format U (R64). The pseudo-instructions of R67 are no rows and stand
in Machine/HostProgram.lean. -/

namespace Sys2Proof

/-- One row of the opcode table each (R69). Only PUSH, SETMODE and DECODE carry an operand, all W bits of `arg` (R62). -/
inductive Instr where
  /-- RESTART, `op = 0x1` (R76). -/
  | restart
  /-- PUSH v, `op = 0x2` (R77). -/
  | push (v : Word)
  /-- ACTIVATE, `op = 0x3` (R78). -/
  | activate
  /-- DEACTIVATE, `op = 0x4` (R79). -/
  | deactivate
  /-- POLL, `op = 0x5` (R80). -/
  | poll
  /-- POP, `op = 0x6` (R81). -/
  | pop
  /-- SETMODE v, `op = 0x7` (R106). -/
  | setmode (v : Word)
  /-- DECODE w, `op = 0x8` (R109). -/
  | decode (w : Word)
  /-- PARK, `op = 0x9` (R82). -/
  | park
  /-- UNPARK, `op = 0xA` (R83). -/
  | unpark
  /-- u.FETCH, `PHASE = 000` (R91). -/
  | uFetch
  /-- u.WAITRDY, `PHASE = 001` (R92). -/
  | uWaitrdy
  /-- u.HI, `PHASE = 010` (R93). -/
  | uHi
  /-- u.LO, `PHASE = 011` (R94). -/
  | uLo
  /-- u.EMIT, `PHASE = 100` (R95). -/
  | uEmit
  /-- u.PARKED, `PHASE = 101` (R96). -/
  | uParked
  deriving DecidableEq, Repr

end Sys2Proof
end

