-- ==== Sys2Proof/Decode.lean ====
section
/-! DEFINITION. The decoder of command words (spec/30_encoding.md R60 to R63) and of micro-program positions (R64), total
and rejecting by name, and the encoder written from the same tables. -/

namespace Sys2Proof

/-- The words of one instruction as the hardware presents them: a whole command word (format H, R60) or the three bits
of `PHASE` (format U, R64). Neither has a byte order (spec/20_memory.md R43, log 17). -/
inductive Code where
  | command (w : CmdWord)
  | phase (p : PhaseCode)
  deriving DecidableEq, Repr

/-- Why a word is no instruction (R63). -/
inductive DecodeError where
  /-- `op` is `0x0` or `0xB` .. `0xF` (R63 (a)). -/
  | badOpcode
  /-- A command that takes no operand, with `arg ≠ 0` (R63 (b)). -/
  | nonzeroArg
  /-- `PHASE` codes 6 and 7 (R63 (c)). -/
  | badPhase
  deriving DecidableEq, Repr

/-- `op = cmd[35:32]` (R60). -/
def opOf (w : CmdWord) : BitVec 4 := w.extractLsb' 32 4

/-- `arg = cmd[31:0]`, never sign-extended, scaled or shifted (R62). -/
def argOf (w : CmdWord) : Word := w.extractLsb' 0 32

/-- The command word with these fields (R60). -/
def cmdWord (op : BitVec 4) (arg : Word) : CmdWord := op ++ arg

/-- A command that takes no operand: `arg` must be zero (R63 (b)). -/
def noOperand (arg : Word) (i : Instr) : Except DecodeError Instr :=
  if arg = 0 then .ok i else .error .nonzeroArg

/-- The decoder of format H: it reads `op` and nothing else to tell the command (R60, R61). -/
def decodeCommand (w : CmdWord) : Except DecodeError Instr :=
  match (opOf w).toNat with
  | 0x1 => noOperand (argOf w) .restart
  | 0x2 => .ok (.push (argOf w))
  | 0x3 => noOperand (argOf w) .activate
  | 0x4 => noOperand (argOf w) .deactivate
  | 0x5 => noOperand (argOf w) .poll
  | 0x6 => noOperand (argOf w) .pop
  | 0x7 => .ok (.setmode (argOf w))
  | 0x8 => .ok (.decode (argOf w))
  | 0x9 => noOperand (argOf w) .park
  | 0xA => noOperand (argOf w) .unpark
  | _ => .error .badOpcode

/-- The decoder of format U: the micro-step whose code equals `PHASE` (R64, R90). -/
def decodePhase (p : PhaseCode) : Except DecodeError Instr :=
  match p.toNat with
  | 0 => .ok .uFetch
  | 1 => .ok .uWaitrdy
  | 2 => .ok .uHi
  | 3 => .ok .uLo
  | 4 => .ok .uEmit
  | 5 => .ok .uParked
  | _ => .error .badPhase

/-- The decoder of both formats. -/
def decodeCode : Code → Except DecodeError Instr
  | .command w => decodeCommand w
  | .phase p => decodePhase p

/-- The encoder, from the tables of R61 and R64. -/
def encode : Instr → Code
  | .restart => .command (cmdWord 0x1 0)
  | .push v => .command (cmdWord 0x2 v)
  | .activate => .command (cmdWord 0x3 0)
  | .deactivate => .command (cmdWord 0x4 0)
  | .poll => .command (cmdWord 0x5 0)
  | .pop => .command (cmdWord 0x6 0)
  | .setmode v => .command (cmdWord 0x7 v)
  | .decode w => .command (cmdWord 0x8 w)
  | .park => .command (cmdWord 0x9 0)
  | .unpark => .command (cmdWord 0xA 0)
  | .uFetch => .phase 0
  | .uWaitrdy => .phase 1
  | .uHi => .phase 2
  | .uLo => .phase 3
  | .uEmit => .phase 4
  | .uParked => .phase 5

/-- The instruction whose bits are `w`, numbered as the opcode table numbers them: rows of 3 bits (one byte) are of format
U, rows of 36 bits (five bytes) of format H. A bit set above the format's width is no instruction (log 17). -/
def decodeTableWord (nbits w : Nat) : Option Instr :=
  if nbits ≤ 8 then
    if w < 2 ^ 3 then (decodePhase (BitVec.ofNat 3 w)).toOption else none
  else
    if w < 2 ^ 36 then (decodeCommand (BitVec.ofNat 36 w)).toOption else none

end Sys2Proof
end

