-- ==== Sys2Proof/Machine/HostProgram.lean ====
section
/-! DEFINITION. Host programs (spec/30_encoding.md R66, R67), responses (R68), failures (spec/60_exceptions.md R135) and the
expansion of every pseudo-instruction into commands (spec/43_sequences.md R120 to R126). -/

namespace Sys2Proof

/-- The failure taxonomy (R135). -/
inductive Failure where
  /-- Code 1; raised by nothing in this block (R138). -/
  | noTriggerPulse
  /-- Code 2; raised by READ step 5 (R136). -/
  | sensorTimeout
  /-- Code 3; raised by DECODE (R137). -/
  | sensorNotResponding
  deriving DecidableEq, Repr

/-- The failure codes of R135; 0 means no failure. -/
def Failure.code : Failure → Nat
  | .noTriggerPulse => 1
  | .sensorTimeout => 2
  | .sensorNotResponding => 3

/-- What a command answers when it completes (R68). -/
inductive Response where
  | nothing
  | flag (b : Bool)
  | word (w : Word)
  | sample (w : Word)
  | failure (f : Failure)
  deriving DecidableEq, Repr

/-- The value a response carries, as a word (R68, log 26). -/
def Response.value : Response → Option Word
  | .nothing => none
  | .flag b => some (if b then 1 else 0)
  | .word w => some w
  | .sample w => some w
  | .failure f => some (BitVec.ofNat 32 f.code)

/-- An operand of a program line (R66): a number or the name of a value bound earlier; and the values that only the
expansions of the pseudo-instructions use. -/
inductive Operand where
  /-- A decimal or hexadecimal number. -/
  | lit (w : Word)
  /-- The value bound to a name by an earlier line. -/
  | name (n : Nat)
  /-- `count(MODE)` of the host's copy of the mode (R107, R120 step 2). -/
  | modeCount
  /-- READ's `w`, the word popped last (R120 step 7). -/
  | popped
  /-- TEMPERATURE's `p`, the mode it found (R122 step 5). -/
  | savedMode
  deriving DecidableEq, Repr

/-- A command as a program writes it, or any command word whatever (reserved ones too, R63). -/
inductive Cmd where
  | restart
  | push (v : Operand)
  | activate
  | deactivate
  | poll
  | pop
  | setmode (v : Operand)
  | decode (w : Operand)
  | park
  | unpark
  | raw (w : CmdWord)
  deriving DecidableEq, Repr

/-- What one line of a host program does: a command, or a pseudo-instruction of R67. -/
inductive HostOp where
  | cmd (c : Cmd)
  | read
  | temperature
  | powerDown
  | powerUp
  | setMode (v : Operand)
  | construct (v : Operand)
  deriving DecidableEq, Repr

/-- One line of a host program (R66): an optional `name <-`, and the operation. `handled` says whether the program has a
handler that goes on with the next line when this line raises a failure (R127, R174). -/
structure Line where
  bind    : Option Nat
  op      : HostOp
  handled : Bool
  deriving DecidableEq, Repr

/-- One thing the host does in a line; only `issue` presents a command to the block. -/
inductive SeqStep where
  /-- Present the command. -/
  | issue (c : Cmd)
  /-- Take the response just given as the line's result; a failure is raised (R109, R137). -/
  | take
  /-- `w <- POP` of READ step 6. -/
  | takeWord
  /-- READ step 4 after a POLL: go on if the flag is 1, else poll again while `left` polls are left, else time out. -/
  | pollCheck (left : Nat)
  /-- End the line with the failure (R142). -/
  | raise (f : Failure)
  /-- `p <- the host's copy of MODE` (R122 step 1). -/
  | savePrev
  /-- `t <- READ` (R122 step 4). -/
  | keep
  /-- `return t` (R122 step 7). -/
  | giveBack
  deriving DecidableEq, Repr

/-- READ as its commands (R120), with `pollBudget` polls at most (R6, D14). -/
def readSteps (pollBudget : Nat) : List SeqStep :=
  [.issue .restart, .issue (.push .modeCount), .issue .activate,
   .issue .poll, .pollCheck (pollBudget - 1),
   .issue .pop, .takeWord, .issue (.decode .popped), .take]

/-- READ step 5: what is left of the line when the poll window has run out (R120, R136). -/
def timeoutSteps : List SeqStep := [.issue .deactivate, .raise .sensorTimeout]

/-- TEMPERATURE as its commands and READs (R122). -/
def temperatureSteps (pollBudget : Nat) : List SeqStep :=
  [.savePrev, .issue (.setmode (.lit 2))] ++ readSteps pollBudget
    ++ readSteps pollBudget ++ [.keep, .issue (.setmode .savedMode)]
    ++ readSteps pollBudget ++ [.giveBack]

/-- The expansion of a line (R67, R120 to R126). Each ends with the line's value in `result`; a line whose last command has no
response (POWER_DOWN, POWER_UP, SET_MODE, CONSTRUCT and the commands of kind none) takes it all the same, and what that leaves is
`takeResponse`'s free value: the model's choice (log 26). -/
def HostOp.steps (pollBudget : Nat) : HostOp → List SeqStep
  | .cmd c => [.issue c, .take]
  | .read => readSteps pollBudget
  | .temperature => temperatureSteps pollBudget
  | .powerDown => [.issue .park, .take]
  | .powerUp => [.issue .unpark, .take]
  | .setMode v => [.issue (.setmode v), .take]
  | .construct v => [.issue (.setmode v), .take]

end Sys2Proof
end

