-- ==== Sys2Proof/Machine/Phases.lean ====
section
/-! DEFINITION. The positions of the micro-program (spec/10_state.md R13) and the questions asked of them. -/

namespace Sys2Proof

/-- `START`: about to take a pulse count from `INQ`; the natural idle state (R13). -/
abbrev Phase.start : PhaseCode := 0
/-- `WAITRDY`: waiting for the chip's ready condition (R13). -/
abbrev Phase.waitrdy : PhaseCode := 1
/-- `HI`: about to raise the clock (R13). -/
abbrev Phase.hi : PhaseCode := 2
/-- `LO`: about to sample the data line and lower the clock (R13). -/
abbrev Phase.lo : PhaseCode := 3
/-- `EMIT`: about to put `SR` in `OUTQ` (R13). -/
abbrev Phase.emit : PhaseCode := 4
/-- `PARKED`: the explicit idle state that parks the clock high (R13). -/
abbrev Phase.parked : PhaseCode := 5

/-- Whether the code names a micro-step; 6 and 7 are reserved (R13, R63 (c)). -/
def Phase.legal (p : PhaseCode) : Bool := decide (p.toNat < 6)

/-- Whether the clock is high in this position: the clock column of R13 and the right side of R17's invariant. -/
def Phase.clockHigh (p : PhaseCode) : Bool := decide (p = Phase.lo ∨ p = Phase.parked)

/-- Whether a pulse train is under way, in the words of R167: "while `PHASE` is `HI` or `LO`". -/
def Phase.inTrain (p : PhaseCode) : Bool := decide (p = Phase.hi ∨ p = Phase.lo)

/-- Whether an acquisition is in progress, as R76 (b) lists the positions: `HI`, `LO`, `WAITRDY` or `EMIT`. -/
def Phase.acquiring (p : PhaseCode) : Bool :=
  decide (p = Phase.waitrdy ∨ p = Phase.hi ∨ p = Phase.lo ∨ p = Phase.emit)

end Sys2Proof
end

