-- ==== Sys2Proof/Machine/State.lean ====
section
/-! DEFINITION. The state of the machine as plain data: the block (spec/10_state.md R10), the chip on its pins (R24), the
host (spec/00_scope.md R5, spec/43_sequences.md), the parameters (R6) and the environment's coming choices; the reasons a
step can stop; and the state right after reset (R29). -/

namespace Sys2Proof.Machine

/-- The reasons the machine stops with a fault: NONE. "No command and no micro-step traps, faults the block or stops it"
(spec/60_exceptions.md R139), so the type has no value (log 15; safe: it forbids nothing the hardware does). -/
inductive Fault where
  deriving DecidableEq, Repr

/-- The reasons a run is refused, each named by the spec (R139) but for the first and the last. A refusal is no event of
the hardware: it marks an input the spec gives no meaning. -/
inductive Refusal where
  /-- Raised by `exec`'s arm of an instruction that has no meaning yet; no arm is left that raises it. Safe. -/
  | notModelled (mnemonic : String)
  /-- Raised by a step whose command word has `op` `0x0` or `0xB` .. `0xF` (R63 (a)). Safe. -/
  | badOpcode
  /-- Raised by a step whose command word has an operand where none is taken (R63 (b)). Safe. -/
  | nonzeroArg
  /-- Raised by a step from a state whose `PHASE` is 6 or 7 (R63 (c)). Safe. -/
  | badPhase
  /-- Raised by u.FETCH on a count word other than 25, 26, 27 (R91, R55). Safe. -/
  | badCount
  /-- Raised by POP on an empty `OUTQ` (R81). Safe. -/
  | popEmpty
  /-- Raised by the turn of a second host context that has a command (R127). Safe. -/
  | interleavedSequences
  /-- Raised by the host when a program line uses a name no line has bound (the model's own, log 23). Safe. -/
  | unboundName
  deriving DecidableEq, Repr

/-- The whole state of the block, "the tuple (MODE, ACT, PHASE, CNT, SR, RDY, CLK, INQ, OUTQ)" (R10). -/
structure Block where
  /-- `MODE` (R11). -/
  mode  : Mode
  /-- `ACT` (R12). -/
  act   : Bool
  /-- `PHASE` (R13). -/
  phase : PhaseCode
  /-- `CNT` (R14). -/
  cnt   : Word
  /-- `SR` (R15). -/
  sr    : Word
  /-- `RDY` (R16). -/
  rdy   : Budget
  /-- `CLK` (R17); `true` is high. -/
  clk   : Bool
  /-- `INQ` (R19), the head first. -/
  inq   : List Word
  /-- `OUTQ` (R20), the head first. -/
  outq  : List Word
  deriving DecidableEq, Repr

/-- The chip, environment state (R24); `none` is the spec's "unknown". -/
structure Chip where
  /-- `c_mode`: the mode under which the conversion to deliver next was made. -/
  mode     : Option Mode
  /-- `c_next`: the mode of the conversion after that. -/
  next     : Option Mode
  /-- `c_value`: the 24-bit payload of the conversion to deliver. -/
  value    : Option (BitVec 24)
  /-- `c_bit`: how many pulses of the current train it has seen. -/
  bit      : Option Nat
  /-- `c_asleep`: whether the clock held high has put it to sleep. -/
  asleep   : Option Bool
  /-- Whether the conforming-chip premise (R18, R25 to R28) holds; no step changes it (log 7). -/
  conforms : Bool
  deriving DecidableEq, Repr

/-- The host: the command port (R60, R68) and the program it runs (R66, R67, R120 to R127). -/
structure HostState where
  /-- The command word presented and not yet completed. -/
  port     : Option CmdWord
  /-- What the last command returned (R68); none while a command is in progress. -/
  resp     : Option Response
  /-- The lines not yet begun. -/
  prog     : List Line
  /-- The line in progress. -/
  line     : Option Line
  /-- What is left of the line in progress. -/
  seq      : List SeqStep
  /-- The host's own copy of `MODE` (R11). -/
  modeCopy : Mode
  /-- READ's `w` (R120 step 6). -/
  word     : Word
  /-- The value the last response taken carried: a READ's sample (R120 step 8); free where it carried none (log 26). -/
  result   : Word
  /-- TEMPERATURE's `t` (R122 step 4). -/
  kept     : Word
  /-- TEMPERATURE's `p` (R122 step 1). -/
  saved    : Mode
  /-- The values bound by `name <-` (R66), the latest first. -/
  vars     : List (Nat × Word)
  /-- The failure raised last (R135); none is code 0. -/
  failure  : Option Failure
  /-- Commands of a second host context that nothing serialises (R127, R168). -/
  foreign  : List CmdWord
  deriving DecidableEq, Repr

/-- The state of the whole model. -/
structure State where
  block : Block
  chip  : Chip
  host  : HostState
  /-- The parameters (R6); no step changes them (log 1). -/
  par   : Params
  /-- The environment's choices for the coming step (log 2). -/
  env   : Env
  /-- How many times the environment has chosen (log 2). -/
  tick  : Nat
  deriving DecidableEq, Repr

/-- The block after reset (R29, R160). -/
def Block.reset : Block where
  mode  := .one
  act   := false
  phase := Phase.start
  cnt   := 0
  sr    := 0
  rdy   := .finite 0
  clk   := false
  inq   := []
  outq  := []

/-- The chip when the block comes out of reset: all unknown (R24, R29). -/
def Chip.unknown (conforms : Bool) : Chip where
  mode     := none
  next     := none
  value    := none
  bit      := none
  asleep   := none
  conforms := conforms

/-- The host before it has issued anything, with this program to run (log 11). -/
def HostState.start (prog : List Line) : HostState where
  port     := none
  resp     := none
  prog     := prog
  line     := none
  seq      := []
  modeCopy := .one
  word     := 0
  result   := 0
  kept     := 0
  saved    := .one
  vars     := []
  failure  := none
  foreign  := []

/-- The machine right after reset (R29, R160): the block deactivated in its natural idle state with both queues empty, the
chip unknown, no host program loaded, the parameters and the environment's first choices open. -/
def State.reset : State where
  block := Block.reset
  chip  := Chip.unknown Config.chipConforms
  host  := HostState.start []
  par   := Config.params
  env   := Env.draw 0
  tick  := 1

end Sys2Proof.Machine
end

