-- ==== Sys2Proof/Machine/Flags.lean ====
section
/-! DEFINITION. The derived status conditions (spec/10_state.md R21). The block has no condition codes; neither condition is
stored, and nothing but queue traffic changes them. `ACT`, the only stored flag, is a field of the block (R12). -/

namespace Sys2Proof.Machine

/-- `OUT_NE = (len(OUTQ) > 0)`, which POLL returns (R21, R80). -/
def outNE (b : Block) : Bool := decide (0 < b.outq.length)

/-- `IN_FULL = (len(INQ) = INQ_DEPTH)`, which decides whether PUSH is enabled (R21, R77). -/
def inFull (p : Params) (b : Block) : Bool := decide (b.inq.length = p.inqDepth)

end Sys2Proof.Machine
end

