-- ==== Sys2Proof/Machine/Operands.lean ====
section
/-! DEFINITION. The operand forms: the coercion of an offered mode (spec/42_decode.md R105), the count word of a mode (R107),
and the values a host program's operand stands for (spec/30_encoding.md R62, R66). -/

namespace Sys2Proof.Machine

/-- `coerce(v)`: 1, 2 and 3 stand for themselves, any other word for 1 (R105). -/
def coerce (v : Word) : Mode :=
  if v = 2 then .two else if v = 3 then .three else .one

/-- `count(m) = 24 + m`: the word pushed and the number of pulses emitted (R107, R55). -/
def count (m : Mode) : Word := BitVec.ofNat 32 (24 + m.toNat)

/-- The mode as a word, as the host offers it to SETMODE (R59, R122 step 5). -/
def modeWord (m : Mode) : Word := BitVec.ofNat 32 m.toNat

/-- `n ∈ {25, 26, 27}`: the count words that have a meaning (R55). -/
def countLegal (n : Word) : Bool := decide (n = 25 ∨ n = 26 ∨ n = 27)

/-- The mode selected by a train of so many pulses, `24 + m` (R27); other counts select none. -/
def modeOfPulses (n : Nat) : Option Mode :=
  if n = 25 then some .one else if n = 26 then some .two else if n = 27 then some .three else none

/-- The value of a name: the latest binding counts (R66). -/
def lookup (n : Nat) : List (Nat × Word) → Option Word
  | [] => none
  | (k, w) :: rest => if n = k then some w else lookup n rest

/-- The word an operand stands for; none for a name no line has bound (R66). -/
def operandValue (h : HostState) : Operand → Option Word
  | .lit w => some w
  | .name n => lookup n h.vars
  | .modeCount => some (count h.modeCopy)
  | .popped => some h.word
  | .savedMode => some (modeWord h.saved)

/-- The command word of a command as a program writes it (R60, R61, R66). -/
def commandWord (h : HostState) : Cmd → Option CmdWord
  | .restart => some (cmdWord 0x1 0)
  | .push v => (operandValue h v).map (cmdWord 0x2)
  | .activate => some (cmdWord 0x3 0)
  | .deactivate => some (cmdWord 0x4 0)
  | .poll => some (cmdWord 0x5 0)
  | .pop => some (cmdWord 0x6 0)
  | .setmode v => (operandValue h v).map (cmdWord 0x7)
  | .decode w => (operandValue h w).map (cmdWord 0x8)
  | .park => some (cmdWord 0x9 0)
  | .unpark => some (cmdWord 0xA 0)
  | .raw w => some w

end Sys2Proof.Machine
end

