-- ==== Sys2Proof/Machine/Ops.lean ====
section
/-! DEFINITION. The named operations every meaning is written with: register writes (spec/00_scope.md R8), the queue
primitives QPush and QPop (R8, spec/20_memory.md R41, R51), samples of the data line (spec/10_state.md R18), what the chip on
the pins goes through (R24 to R28), hold and respond (R8, spec/30_encoding.md R68), the end of a host sequence by a failure
(spec/60_exceptions.md R142) and the block's reset (spec/70_reset_and_hazards.md R160). -/

namespace Sys2Proof.Machine

/-- What a meaning answers. -/
abbrev Result := Host.Outcome State Fault Refusal

/-! ### Register writes -/

/-- `MODE <- m`. -/
def State.setMode (s : State) (m : Mode) : State := { s with block := { s.block with mode := m } }
/-- `ACT <- a`. -/
def State.setAct (s : State) (a : Bool) : State := { s with block := { s.block with act := a } }
/-- `PHASE <- p`. -/
def State.setPhase (s : State) (p : PhaseCode) : State := { s with block := { s.block with phase := p } }
/-- `CNT <- n`. -/
def State.setCnt (s : State) (n : Word) : State := { s with block := { s.block with cnt := n } }
/-- `SR <- w`. -/
def State.setSr (s : State) (w : Word) : State := { s with block := { s.block with sr := w } }
/-- `RDY <- r`. -/
def State.setRdy (s : State) (r : Budget) : State := { s with block := { s.block with rdy := r } }
/-- `CLK <- c`. -/
def State.setClk (s : State) (c : Bool) : State := { s with block := { s.block with clk := c } }
/-- `INQ <- q`. -/
def State.setInq (s : State) (q : List Word) : State := { s with block := { s.block with inq := q } }
/-- `OUTQ <- q`. -/
def State.setOutq (s : State) (q : List Word) : State := { s with block := { s.block with outq := q } }
/-- The chip's state becomes `c`. -/
def State.setChip (s : State) (c : Chip) : State := { s with chip := c }

/-! ### Queues -/

/-- `QPush(Q, v)`: the queue with `v` at the tail; defined only when `len(Q)` is below the depth (R8). -/
def qPush (depth : Nat) (q : List Word) (v : Word) : Option (List Word) :=
  if q.length < depth then some (q ++ [v]) else none

/-- `QPop(Q)`: the head word and the rest; defined only when `len(Q) > 0` (R8). -/
def qPop : List Word → Option (Word × List Word)
  | [] => none
  | v :: q => some (v, q)

/-! ### The chip on the pins -/

/-- The chip's mode, next mode, value and place in the train become unknown (R27, R28, log 8). -/
def Chip.forget (c : Chip) : Chip :=
  { c with mode := none, next := none, value := none, bit := none }

/-- The chip at the start of a train: it has seen no pulse yet (R24 `c_bit`, R26). -/
def Chip.trainStart (c : Chip) : Chip := { c with bit := some 0 }

/-- The clock falls: the chip is awake, and if it had slept everything it held is unknown (R28). -/
def Chip.clockFell (c : Chip) : Chip :=
  match c.asleep with
  | some true => { c.forget with asleep := some false }
  | _ => { c with asleep := some false }

/-- A train has ended: its number of pulses selects the mode, and the next conversion result is `v` (R27); after a train
whose pulses the chip could not count, all stays unknown (log 8). -/
def Chip.trainEnd (c : Chip) (v : BitVec 24) : Chip :=
  match c.bit.bind modeOfPulses with
  | some m => { c with mode := some m, next := some m, value := some v, bit := some 0 }
  | none => c.forget

/-- One pulse of the train is over (R24 `c_bit`); `last` says whether it ends the train (R27). -/
def Chip.pulse (c : Chip) (last : Bool) (v : BitVec 24) : Chip :=
  let c' := c.clockFell
  let c'' := { c' with bit := c'.bit.map (· + 1) }
  if last then c''.trainEnd v else c''

/-- RESTART and UNPARK as the chip sees them: a train cut short, or a clock that was high and goes low, leaves it unknown,
and the low clock leaves it awake (R27, R28, R76 (b), R83 (b), logs 8 and 9). -/
def Chip.released (c : Chip) (b : Block) : Chip :=
  let c' := if Phase.acquiring b.phase || b.clk then c.forget else c
  if b.clk then { c' with asleep := some false } else c'

/-- PARK as the chip sees it: a train it cuts short leaves the chip unknown (R27, R82 (a)). -/
def Chip.parked (c : Chip) (b : Block) : Chip :=
  if Phase.acquiring b.phase then c.forget else c

/-- DEACTIVATE as the chip sees it: "in the middle" of a train it leaves the chip unknown (R27, U20). -/
def Chip.frozen (c : Chip) (b : Block) : Chip :=
  if Phase.inTrain b.phase then c.forget else c

/-- What a conforming, waking chip with a known value presents on the pulse after the `c_bit` it has seen: bit `24 - i` of
`c_value` on pulse `i`, `1 ≤ i ≤ 24`; nothing certain on a mode pulse (R26, R18). -/
def Chip.answer (c : Chip) : Option Bool :=
  if c.conforms && c.asleep == some false then
    match c.value, c.bit with
    | some v, some k => if k < 24 then some (v.getLsbD (23 - k)) else none
    | _, _ => none
  else none

/-- `SampleDATA()` of the ready wait: the chip may be ready or not at any sample (R18, R25). -/
def sampleReady (s : State) : Bool := s.env.data

/-- `SampleDATA()` within a pulse: what the chip presents, or a free level (R18, R26). -/
def samplePulse (s : State) : Bool := s.chip.answer.getD s.env.data

/-- `((SR << 1) | b) mod 2^W`: the sampled bit enters at bit 0 (R42, R94). -/
def shiftIn (sr : Word) (b : Bool) : Word := (sr <<< 1) ||| (BitVec.ofBool b).setWidth 32

/-- `CNT - 1` (R94); of 0, which R110 (c) rules out, a free value (log 5). -/
def decrement (free cnt : Word) : Word := if cnt = 0 then free else cnt - 1

/-! ### Holding, answering, failing -/

/-- `hold`: the agent waits; the state is unchanged and the same step is tried at its next turn (R8, R51, R90, log 4). -/
def hold (s : State) : Result := .next s

/-- A micro-step is taken only while `ACT = 1`; with `ACT = 0` none is enabled in any phase (R90, R12). -/
def whenActive (s : State) (r : Result) : Result := if s.block.act then r else hold s

/-- A command completes with its response and leaves the port (R60, R68). -/
def respond (s : State) (r : Response) : State :=
  { s with host := { s.host with port := none, resp := some r } }

/-- RESTART's and UNPARK's effect on the block: the start state, the clock low, the working registers 0 (R76, R83). -/
def toStart (s : State) : State :=
  (((((s.setChip (s.chip.released s.block)).setPhase Phase.start).setClk false).setCnt 0).setSr 0).setRdy (.finite 0)

/-- A failure ends the host sequence that raised it and is handed to the caller: the program's handler goes on with the
next line, and without a handler the program has ended. The block is left as it is (R142, R127, R174, log 14). There is no
return from a failure (R143). -/
def raiseFailure (f : Failure) (s : State) : State :=
  { s with host := { s.host with
      failure := some f
      seq := []
      line := none
      prog := if s.host.line.any Line.handled then s.host.prog else [] } }

/-- The block's reset, applied to any state (R160, R161): every element of the block at its reset value, the chip unknown
(R24), the host and the parameters as they were (log 22). -/
def resetBlock (s : State) : State :=
  { s with block := Block.reset, chip := Chip.unknown s.chip.conforms }

/-! ### Between the steps -/

/-- The chip may fall asleep in a step that finds the clock high and leaves it high (R28, log 10). -/
def sleepBetween (before after : State) : State :=
  if before.block.clk && after.block.clk && before.env.sleeps then
    after.setChip { after.chip with asleep := some true }
  else after

/-- The environment chooses anew for the next step (log 2, log 3). -/
def redraw (s : State) : State := { s with env := Env.draw s.tick, tick := s.tick + 1 }

/-- What every step adds after its agent's effect: the chip's chance to fall asleep, and the environment's next choices. -/
def settle (before after : State) : State := redraw (sleepBetween before after)

/-- `settle` on an outcome: a stop stays the stop it is. -/
def settled (before : State) : Result → Result
  | .next t => .next (settle before t)
  | .fault f => .fault f
  | .refused r => .refused r

/-- The refusal that a reserved encoding gives (R63, R139). -/
def refusalOf : DecodeError → Refusal
  | .badOpcode => .badOpcode
  | .nonzeroArg => .nonzeroArg
  | .badPhase => .badPhase

end Sys2Proof.Machine
end

