-- ==== Sys2Proof/Machine/Decoder.lean ====
section
/-! DEFINITION. PDEC, the mode-decode and sign-extension logic (spec/42_decode.md): `decode` and its inverse, and the commands
SETMODE and DECODE. There is one decode function in the block (R113). -/

namespace Sys2Proof.Machine

/-- `decode(raw, m)` (R108): `d = raw >> m`, then `d - 2^24` if `d > 2^23 - 1`, once and without a mask; an exact integer
(R110 (d) to (f)). -/
def decodeSample (raw : Word) (m : Mode) : Int :=
  let d := raw.toNat >>> m.toNat
  if 2 ^ 23 - 1 < d then (d : Int) - 2 ^ 24 else (d : Int)

/-- `sext_24(v)` (R7). -/
def sext24 (v : BitVec 24) : Int := if v.toNat ≤ 2 ^ 23 - 1 then (v.toNat : Int) else (v.toNat : Int) - 2 ^ 24

/-- `encode(s, m, g)` (R112): `payload · 2^m + g` with `payload = s` or `s + 2^24`. -/
def encodeSample (s : Int) (m : Mode) (g : Nat) : Word :=
  BitVec.ofNat 32 ((if 0 ≤ s then s else s + 2 ^ 24).toNat * 2 ^ m.toNat + g)

/-- A sample as a W-bit word in two's complement (R58). -/
def sampleWord (s : Int) : Word := BitVec.ofInt 32 s

/-- DECODE's answer: the operand is compared with `SENTINEL` unshifted, before any arithmetic (R109, R141). -/
def decodeResponse (sentinel w : Word) (m : Mode) : Response :=
  if w = sentinel then .failure .sensorNotResponding else .sample (sampleWord (decodeSample w m))

/-- SETMODE v (R106): the mode register and, with it, the host's own copy (R11, log 12). -/
def execSetmode (v : Word) (s : State) : Result :=
  let t := s.setMode (coerce v)
  .next (respond { t with host := { t.host with modeCopy := coerce v } } .nothing)

/-- DECODE w (R109): nothing of the block changes. -/
def execDecode (w : Word) (s : State) : Result :=
  .next (respond s (decodeResponse s.par.sentinel w s.block.mode))

end Sys2Proof.Machine
end

