-- ==== Sys2Proof/Machine/HostCommands.lean ====
section
/-! DEFINITION. The host commands on the sequencer (spec/40_host_commands.md R76 to R83). Each is one atomic step and may be
issued in any state of the block (R75). -/

namespace Sys2Proof.Machine

/-- RESTART (R76). -/
def execRestart (s : State) : Result := .next (respond (toStart s) .nothing)

/-- PUSH v (R77): any word is accepted; a full `INQ` holds the host, the command staying at the port (R51, R68). -/
def execPush (v : Word) (s : State) : Result :=
  match qPush s.par.inqDepth s.block.inq v with
  | some q => .next (respond (s.setInq q) .nothing)
  | none => hold s

/-- ACTIVATE (R78). -/
def execActivate (s : State) : Result := .next (respond (s.setAct true) .nothing)

/-- DEACTIVATE (R79): everything but `ACT` keeps its value, `CLK` included. -/
def execDeactivate (s : State) : Result :=
  .next (respond ((s.setChip (s.chip.frozen s.block)).setAct false) .nothing)

/-- POLL (R80). -/
def execPoll (s : State) : Result := .next (respond s (.flag (outNE s.block)))

/-- POP (R81): the word comes back unchanged; an empty `OUTQ` has no meaning (`pop_empty`). -/
def execPop (s : State) : Result :=
  match qPop s.block.outq with
  | some (w, q) => .next (respond (s.setOutq q) (.word w))
  | none => .refused .popEmpty

/-- PARK (R82): whatever `ACT` and the phase. -/
def execPark (s : State) : Result :=
  .next (respond (((s.setChip (s.chip.parked s.block)).setPhase Phase.parked).setClk true) .nothing)

/-- UNPARK (R83): in every phase the effect of RESTART. -/
def execUnpark (s : State) : Result := .next (respond (toStart s) .nothing)

end Sys2Proof.Machine
end

