-- ==== Sys2Proof/Machine/Microprogram.lean ====
section
/-! DEFINITION. The fixed micro-program (spec/41_microprogram.md R90 to R98): one meaning per micro-step. Each is one atomic
step (R45), and none has an effect while `ACT = 0` (R90). -/

namespace Sys2Proof.Machine

/-- u.FETCH (R91): hold on an empty `INQ`; a count other than 25, 26, 27 has no meaning (`bad_count`). -/
def execUFetch (s : State) : Result :=
  whenActive s <|
    match qPop s.block.inq with
    | none => hold s
    | some (n, q) =>
      if countLegal n then
        .next (((((s.setInq q).setCnt n).setSr 0).setRdy s.par.readyBudget).setPhase Phase.waitrdy)
      else .refused .badCount

/-- u.WAITRDY on a low sample: the chip is ready and its train starts (R92, R26). -/
def waitReady (s : State) : State := (s.setChip s.chip.trainStart).setPhase Phase.hi

/-- u.WAITRDY on a high sample: give up with the sentinel when the budget is spent, else count the sample (R92). -/
def waitMore (s : State) : State :=
  match s.block.rdy with
  | .finite 0 => (s.setSr s.par.sentinel).setPhase Phase.emit
  | .finite (n + 1) => s.setRdy (.finite n)
  | .unbounded => s

/-- u.WAITRDY (R92): one sample of the data line; low is ready. -/
def execUWaitrdy (s : State) : Result :=
  whenActive s (.next (if sampleReady s then waitMore s else waitReady s))

/-- u.HI (R93): the leading edge of the pulse. -/
def execUHi (s : State) : Result :=
  whenActive s (.next ((s.setClk true).setPhase Phase.lo))

/-- u.LO (R94): the sample, the shift, the trailing edge and the count are one step; `CNT` is read before the decrement. -/
def execULo (s : State) : Result :=
  whenActive s <|
    let last := decide (s.block.cnt = 1)
    .next <|
      ((((s.setChip (s.chip.pulse last s.env.conv)).setSr (shiftIn s.block.sr (samplePulse s))).setClk false).setPhase
        (if last then Phase.emit else Phase.hi)).setCnt (decrement s.env.free s.block.cnt)

/-- u.EMIT (R95): hold on a full `OUTQ`. -/
def execUEmit (s : State) : Result :=
  whenActive s <|
    match qPush s.par.outqDepth s.block.outq s.block.sr with
    | none => hold s
    | some q => .next ((s.setOutq q).setPhase Phase.start)

/-- u.PARKED (R96): the sequencer waits whether or not it is activated; only the host lifts it. -/
def execUParked (s : State) : Result := hold s

end Sys2Proof.Machine
end

