-- ==== Sys2Proof/Machine/Dispatch.lean ====
section
/-! DEFINITION. The meaning of every instruction: one arm per row of spec/opcode_table.json. -/

namespace Sys2Proof.Machine

/-- The effect of one instruction. -/
def exec (i : Instr) (s : State) : Host.Outcome State Fault Refusal :=
  match i with
  | .restart => Sys2Proof.Machine.execRestart s
  | .push v => Sys2Proof.Machine.execPush v s
  | .activate => Sys2Proof.Machine.execActivate s
  | .deactivate => Sys2Proof.Machine.execDeactivate s
  | .poll => Sys2Proof.Machine.execPoll s
  | .pop => Sys2Proof.Machine.execPop s
  | .setmode v => Sys2Proof.Machine.execSetmode v s
  | .decode w => Sys2Proof.Machine.execDecode w s
  | .park => Sys2Proof.Machine.execPark s
  | .unpark => Sys2Proof.Machine.execUnpark s
  | .uFetch => Sys2Proof.Machine.execUFetch s
  | .uWaitrdy => Sys2Proof.Machine.execUWaitrdy s
  | .uHi => Sys2Proof.Machine.execUHi s
  | .uLo => Sys2Proof.Machine.execULo s
  | .uEmit => Sys2Proof.Machine.execUEmit s
  | .uParked => Sys2Proof.Machine.execUParked s

end Sys2Proof.Machine
end

