-- ==== Sys2Proof/Machine/HostAgent.lean ====
section
/-! DEFINITION. The host between its commands: it runs its program line by line, presents commands at the port and takes
their responses (spec/30_encoding.md R66 to R68, spec/43_sequences.md R120 to R127). Nothing here touches the block. -/

namespace Sys2Proof.Machine

/-- The host with these host fields. -/
def State.setHost (s : State) (h : HostState) : State := { s with host := h }

/-- Present a command at the port; a name no line has bound is refused (log 23). -/
def issueCommand (c : Cmd) (rest : List SeqStep) (s : State) : Result :=
  match commandWord s.host c with
  | some w => .next (s.setHost { s.host with port := some w, resp := none, seq := rest })
  | none => .refused .unboundName

/-- The line has come to its end: its value is bound to its name, if it has one (R66). What a name binds on a line without a
response is the model's choice, since R66 binds a response only: the free value `takeResponse` left (log 26). -/
def endLine (l : Line) (s : State) : State :=
  s.setHost { s.host with
    line := none
    vars := match l.bind with
      | some n => (n, s.host.result) :: s.host.vars
      | none => s.host.vars }

/-- READ step 4 after a POLL (R120): the first flag 1 ends the loop, `left` polls are still to issue, and when none is left
the window has run out (R136). -/
def afterPoll (left : Nat) (rest : List SeqStep) (s : State) : State :=
  if s.host.resp = some (.flag true) then s.setHost { s.host with seq := rest }
  else match left with
    | 0 => s.setHost { s.host with seq := timeoutSteps }
    | n + 1 => s.setHost { s.host with seq := .issue .poll :: .pollCheck n :: rest }

/-- The value of the response just given; where it carries none the spec is silent, and the model leaves a free value: the
model's choice (R66, R68, log 26). -/
def responseValue (s : State) : Word := (s.host.resp.bind Response.value).getD s.env.free

/-- Take a response as the line's result; DECODE's failure is raised (R109, R137). -/
def takeResponse (rest : List SeqStep) (s : State) : State :=
  match s.host.resp with
  | some (.failure f) => raiseFailure f s
  | some _ => s.setHost { s.host with result := responseValue s, seq := rest }
  | none => s.setHost { s.host with result := responseValue s, seq := rest }

/-- One thing the host does within a line. -/
def hostSeqStep (x : SeqStep) (rest : List SeqStep) (s : State) : Result :=
  match x with
  | .issue c => issueCommand c rest s
  | .take => .next (takeResponse rest s)
  | .takeWord =>
    .next (s.setHost { s.host with word := responseValue s, seq := rest })
  | .pollCheck left => .next (afterPoll left rest s)
  | .raise f => .next (raiseFailure f s)
  | .savePrev => .next (s.setHost { s.host with saved := s.host.modeCopy, seq := rest })
  | .keep => .next (s.setHost { s.host with kept := s.host.result, seq := rest })
  | .giveBack => .next (s.setHost { s.host with result := s.host.kept, seq := rest })

/-- The host's turn while no command is at the port: the next thing of the line in progress, the end of the line, the next
line, or nothing when the program has ended (R127, R174). -/
def hostAdvance (s : State) : Result :=
  match s.host.line with
  | none =>
    match s.host.prog with
    | [] => hold s
    | l :: rest =>
      .next (s.setHost { s.host with line := some l, prog := rest, seq := l.op.steps s.par.pollBudget })
  | some l =>
    match s.host.seq with
    | [] => .next (endLine l s)
    | x :: rest => hostSeqStep x rest s

/-- The turn of a second host context: with nothing to issue it does nothing, and a command of its own among the host's has
no meaning (R127, R168, log 13). -/
def foreignTurn (s : State) : Result :=
  match s.host.foreign with
  | [] => hold s
  | _ :: _ => .refused .interleavedSequences

end Sys2Proof.Machine
end

