-- ==== Sys2Proof/Machine/Step.lean ====
section
/-! DEFINITION. One step of the machine (spec/20_memory.md R45, R48): the agent whose turn it is takes one atomic step, and the
environment chooses for the next. -/

namespace Sys2Proof.Machine

/-- The host's turn: execute the command at the port, or go on with the program. -/
def hostTurn (s : State) : Host.Outcome State Fault Refusal :=
  match s.host.port with
  | none => settled s (hostAdvance s)
  | some w =>
    match Sys2Proof.decodeCommand w with
    | .ok i => settled s (exec i s)
    | .error e => .refused (refusalOf e)

/-- One step. `PHASE` is decoded first, since a state holding a reserved code is refused (R13, R63 (c), log 16). -/
def step (s : State) : Host.Outcome State Fault Refusal :=
  match Sys2Proof.decodePhase s.block.phase with
  | .error e => .refused (refusalOf e)
  | .ok u =>
    match s.env.turn with
    | .host => hostTurn s
    | .sequencer => settled s (exec u s)
    | .foreign => settled s (foreignTurn s)

/-- `s` with the instruction whose bits are `w` as the next to run (log 17): a command word is placed at the port with the
host to move; a micro-step is placed in `PHASE` of an activated sequencer with the sequencer to move. -/
def State.withFetchWord (s : State) (nbits w : Nat) : State :=
  if nbits ≤ 8 then
    { s with
      block := { s.block with phase := BitVec.ofNat 3 w, act := true }
      env := { s.env with turn := .sequencer } }
  else
    { s with
      host := { s.host with port := some (BitVec.ofNat 36 w) }
      env := { s.env with turn := .host } }

end Sys2Proof.Machine
end

