-- ==== Sys2Proof/WellFormed.lean ====
section
/-! DEFINITION. What a well-formed term is: an instruction (always, its operand being a word by its type), the parameters
(spec/00_scope.md R6), a host program (spec/30_encoding.md R66: a name is bound before it is used, and bound only to a value). -/

namespace Sys2Proof

/-- Every term of `Instr` is an instruction: the operand of PUSH, SETMODE and DECODE may be any word (R62), and the other
rows have no operand field. What can be ill-formed is a WORD, which the decoder refuses by name (R63). -/
def Instr.wellFormed : Instr → Bool
  | .restart => true
  | .push _ => true
  | .activate => true
  | .deactivate => true
  | .poll => true
  | .pop => true
  | .setmode _ => true
  | .decode _ => true
  | .park => true
  | .unpark => true
  | .uFetch => true
  | .uWaitrdy => true
  | .uHi => true
  | .uLo => true
  | .uEmit => true
  | .uParked => true

/-- The constraints of R6 on the parameters: depths and poll budget at least 1, and `2^27 ≤ SENTINEL` (R57). -/
def Params.wellFormed (p : Params) : Bool :=
  decide (1 ≤ p.inqDepth) && decide (1 ≤ p.outqDepth) && decide (2 ^ 27 ≤ p.sentinel.toNat) && decide (1 ≤ p.pollBudget)

/-- An operand whose name, if it has one, is among the names bound so far. -/
def Operand.boundIn (names : List Nat) : Operand → Bool
  | .name n => names.contains n
  | .lit _ => true
  | .modeCount => true
  | .popped => true
  | .savedMode => true

/-- The operand of a command is bound. -/
def Cmd.boundIn (names : List Nat) : Cmd → Bool
  | .push v => v.boundIn names
  | .setmode v => v.boundIn names
  | .decode w => w.boundIn names
  | .restart => true
  | .activate => true
  | .deactivate => true
  | .poll => true
  | .pop => true
  | .park => true
  | .unpark => true
  | .raw _ => true

/-- The operands of a line are bound. -/
def HostOp.boundIn (names : List Nat) : HostOp → Bool
  | .cmd c => c.boundIn names
  | .setMode v => v.boundIn names
  | .construct v => v.boundIn names
  | .read => true
  | .temperature => true
  | .powerDown => true
  | .powerUp => true

/-- Whether the operation answers a value that `name <-` can bind (R66, R68). -/
def HostOp.answers : HostOp → Bool
  | .cmd .poll => true
  | .cmd .pop => true
  | .cmd (.decode _) => true
  | .cmd (.raw _) => true
  | .cmd .restart => false
  | .cmd (.push _) => false
  | .cmd .activate => false
  | .cmd .deactivate => false
  | .cmd (.setmode _) => false
  | .cmd .park => false
  | .cmd .unpark => false
  | .read => true
  | .temperature => true
  | .powerDown => false
  | .powerUp => false
  | .setMode _ => false
  | .construct _ => false

/-- A host program that uses no name before a line binds it (R66); `names` are those bound already. A line that handles a
failure may end without binding its name, so it counts as binding none. -/
def programWellFormed (names : List Nat) : List Line → Bool
  | [] => true
  | l :: rest =>
    l.op.boundIn names && (l.bind.isNone || l.op.answers) &&
      programWellFormed (if l.handled then names else l.bind.toList ++ names) rest

end Sys2Proof
end

