-- ==== Sys2Proof/Safety.lean ====
section
/-! DEFINITION. The terms in which claims are made: runs under chosen environments (spec/20_memory.md R48), which micro-step is
enabled (spec/41_microprogram.md R90, R98), the end of a run (spec/70_reset_and_hazards.md R174), and the invariants of the
block (spec/10_state.md R16, R17, spec/20_memory.md R52, spec/30_encoding.md R56, R57). -/

namespace Sys2Proof.Machine

/-! ### Runs -/

/-- A safe outcome: the run goes on, no input without a meaning was met (R139). -/
def safeOutcome : Result → Bool
  | .next _ => true
  | .fault _ => false
  | .refused _ => false

/-- One step with the environment choosing `e`. -/
def stepWith (e : Env) (s : State) : Result := step { s with env := e }

/-- The run in which the environment chooses the list in turn, stopping at the first stop. -/
def run : List Env → State → Result
  | [], s => .next s
  | e :: es, s =>
    match stepWith e s with
    | .next t => run es t
    | .fault f => .fault f
    | .refused r => .refused r

/-- The turns of one agent in a schedule. -/
def turnsOf (a : Agent) (es : List Env) : List Env := es.filter fun e => e.turn = a

/-- The turn of another agent than the sequencer goes on, and brings no command but POLL to the block: the premise of R97, "let
no host command other than POLL intervene". A turn of a host with nothing to present is one too. -/
def quietTurn (s : State) : Prop :=
  safeOutcome (step s) = true ∧ (s.env.turn = .host → ∀ w, s.host.port = some w → decodeCommand w = .ok .poll)

/-- Every turn in the run that is not the sequencer's is quiet. -/
def othersQuiet : List Env → State → Prop
  | [], _ => True
  | e :: es, s =>
    (e.turn ≠ .sequencer → quietTurn { s with env := e }) ∧ ∀ t, stepWith e s = .next t → othersQuiet es t

/-- The sequencer's turns in a schedule once the host has taken `n` of its own. -/
def turnsOnceHostTook : Nat → List Env → List Env
  | _, [] => []
  | n, e :: es =>
    match e.turn with
    | .host => turnsOnceHostTook (n - 1) es
    | .sequencer => if n = 0 then e :: turnsOnceHostTook 0 es else turnsOnceHostTook n es
    | .foreign => turnsOnceHostTook n es

/-- How many more turns of the host bring READ to a POLL that finds the word, where the word comes `j` turns of the host after
READ's RESTART was executed (R120): two each for PUSH and ACTIVATE, and for a POLL three, to present it, to execute it and to look
at its flag; a POLL executed before the word came is looked at and followed by another. -/
def turnsToFlag (j : Nat) : Nat :=
  if j < 4 then 7 - j else if (j - 4) % 3 = 0 then 3 else if (j - 4) % 3 = 1 then 2 else 4

/-- How often the clock rises in that run. -/
def rises : List Env → State → Nat
  | [], _ => 0
  | e :: es, s =>
    match stepWith e s with
    | .next t => (if !s.block.clk && t.block.clk then 1 else 0) + rises es t
    | .fault _ => 0
    | .refused _ => 0

/-- How often the clock falls in that run. -/
def falls : List Env → State → Nat
  | [], _ => 0
  | e :: es, s =>
    match stepWith e s with
    | .next t => (if s.block.clk && !t.block.clk then 1 else 0) + falls es t
    | .fault _ => 0
    | .refused _ => 0

/-- Every step of the schedule is the sequencer's, and the data line has the level listed wherever one is listed. -/
def sequencerSees : List (Option Bool) → List Env → Prop
  | [], [] => True
  | [], _ :: _ => False
  | _ :: _, [] => False
  | d :: ds, e :: es => e.turn = .sequencer ∧ (∀ b, d = some b → e.data = b) ∧ sequencerSees ds es

/-- The levels of one acquisition with `k` high samples before the low one and these samples on the pulses: u.FETCH, the
ready wait, u.HI and u.LO per pulse, u.EMIT (R97 (1), (5)). -/
def acquisitionLevels (k : Nat) (bits : List Bool) : List (Option Bool) :=
  none :: (List.replicate k (some true) ++ some false :: (bits.flatMap fun b => [none, some b]) ++ [none])

/-- The levels of an acquisition that gives up after `k + 1` high samples (R97 (3)). -/
def sentinelLevels (k : Nat) : List (Option Bool) :=
  none :: (List.replicate (k + 1) (some true) ++ [none])

/-- The samples of the next train are the environment's, whatever the chip: it does not keep its contract (R18), or it holds no
known conversion (R24, R27), or it is asleep (R28). -/
def samplesFree (c : Chip) : Prop := c.conforms = false ∨ c.value = none ∨ c.asleep = some true

/-- `Σ b_i · 2^(N-i)`, the word of the samples, first sampled bit highest (R97 (1), R42). -/
def rawOf : List Bool → Nat
  | [] => 0
  | b :: bs => b.toNat * 2 ^ bs.length + rawOf bs

/-- A schedule of so many turns of the host alone. -/
def hostOnly (es : List Env) : Prop := ∀ e ∈ es, e.turn = .host

/-- The commands or micro-steps of the list, one after the other, stopping at the first stop. -/
def execAll : List Instr → State → Result
  | [], s => .next s
  | i :: is, s =>
    match exec i s with
    | .next t => execAll is t
    | .fault f => .fault f
    | .refused r => .refused r

/-- The levels of an acquisition of `n` pulses in which only the ready wait is prescribed: the chip itself answers on the
pulses (R97 (2), R26). -/
def freePulseLevels (k n : Nat) : List (Option Bool) :=
  none :: (List.replicate k (some true) ++ some false :: List.replicate (2 * n + 1) none)

/-- The sample of a raw word acquired in a mode, in integer arithmetic: the value after the shift, sign-extended (R108, R111). -/
def sampleOf (raw : Nat) (m : Mode) : Int :=
  if 2 ^ 23 - 1 < raw / 2 ^ m.toNat then (raw / 2 ^ m.toNat : Int) - 2 ^ 24 else (raw / 2 ^ m.toNat : Int)

/-! ### Enabling and the end of a run -/

/-- Whether the sequencer has a step to take that changes anything but `RDY`'s infinite wait (R90, R98, R51). -/
def microEnabled (s : State) : Bool :=
  s.block.act &&
    (if s.block.phase = Phase.start then !s.block.inq.isEmpty
     else if s.block.phase = Phase.emit then decide (s.block.outq.length < s.par.outqDepth)
     else decide (s.block.phase = Phase.waitrdy ∨ s.block.phase = Phase.hi ∨ s.block.phase = Phase.lo))

/-- The sequencer is at rest: no micro-step is enabled and none will be without a further host command (R174 (2)). -/
def atRest (s : State) : Bool :=
  !s.block.act || decide (s.block.phase = Phase.start ∧ s.block.inq = []) || decide (s.block.phase = Phase.parked)

/-- The host has completed its last command or has ended on a failure (R174 (1)). -/
def hostDone (s : State) : Bool :=
  s.host.port.isNone && s.host.line.isNone && s.host.prog.isEmpty

/-- The final states of a run (R174). -/
def final (s : State) : Bool := hostDone s && atRest s

/-- A host held in a PUSH that nothing will lift: `INQ` is full and the sequencer takes no u.FETCH (R51, U11). -/
def hostHung (s : State) : Bool :=
  (match s.host.port with
   | some w => decide (opOf w = 0x2)
   | none => false) &&
    inFull s.par s.block && (!s.block.act || decide (s.block.phase = Phase.parked))

/-! ### Invariants -/

/-- `CLK = 1` exactly when `PHASE` is `LO` or `PARKED` (R17). -/
def ClockFollowsPhase (s : State) : Prop := s.block.clk = Phase.clockHigh s.block.phase

/-- `0 ≤ len(INQ) ≤ INQ_DEPTH` and `0 ≤ len(OUTQ) ≤ OUTQ_DEPTH` (R52). -/
def QueuesWithinDepth (s : State) : Prop :=
  s.block.inq.length ≤ s.par.inqDepth ∧ s.block.outq.length ≤ s.par.outqDepth

/-- A word `OUTQ` may carry: below `2^27`, as every raw word is, or the sentinel (R20, R56, R57). -/
def OutputWord (sentinel w : Word) : Prop := w.toNat < 2 ^ 27 ∨ w = sentinel

/-- `CNT` and `SR` at each position of the micro-program: a legal count while waiting; from 1 to 27 pulses left in a train,
and no more bits in `SR` than pulses taken; an output word at `EMIT` (R14, R15, R94 (b), (c)). -/
def TrainWithinBounds (s : State) : Prop :=
  (s.block.phase = Phase.waitrdy → 25 ≤ s.block.cnt.toNat ∧ s.block.cnt.toNat ≤ 27 ∧ s.block.sr = 0) ∧
  (Phase.inTrain s.block.phase →
    1 ≤ s.block.cnt.toNat ∧ s.block.cnt.toNat ≤ 27 ∧ s.block.sr.toNat < 2 ^ (27 - s.block.cnt.toNat)) ∧
  (s.block.phase = Phase.emit → OutputWord s.par.sentinel s.block.sr)

/-- The working registers are within their bounds, and every word of `OUTQ` is below `2^27` or the sentinel (R14, R56, R57). -/
def EmittedWordsKnown (s : State) : Prop :=
  TrainWithinBounds s ∧ ∀ w ∈ s.block.outq, OutputWord s.par.sentinel w

/-- `RDY` is at most `READY_BUDGET` (R16). -/
def BudgetNotExceeded (s : State) : Prop := s.block.rdy.atMost s.par.readyBudget = true

/-- The host's copy of the mode is the mode (R11). -/
def CopyAgrees (s : State) : Prop := s.host.modeCopy = s.block.mode

/-- The chip's place in a train, where it is known, and the pulses left make a legal count, so `c_bit` is in 0 .. 27 (R24). -/
def ChipPlaceLegal (s : State) : Prop :=
  (s.block.phase = Phase.waitrdy → 25 ≤ s.block.cnt.toNat ∧ s.block.cnt.toNat ≤ 27) ∧
  (Phase.inTrain s.block.phase → 1 ≤ s.block.cnt.toNat) ∧
  (∀ k, s.chip.bit = some k →
    if Phase.inTrain s.block.phase then 25 ≤ k + s.block.cnt.toNat ∧ k + s.block.cnt.toNat ≤ 27 else k ≤ 27)

end Sys2Proof.Machine
end

