-- ==== Sys2Proof/Certificates/Slice0/Obligations.lean ====
section
/-! DEFINITION. The statements for the provers, from the numbered rules of spec/. "Everything else unchanged" is said by giving
the whole next state, or the whole block, host, parameters and chip. -/

open Sys2Proof Sys2Proof.Machine

/-! ### Encodings -/

/-- R60 to R64: a code decodes to an instruction exactly when it is that instruction's encoding, so decode of encode is the
instruction with every operand at every value, and no two codes mean the same. -/
def Obligations.DecodeInvertsEncode : Prop :=
  ∀ (c : Code) (i : Instr), decodeCode c = .ok i ↔ encode i = c

/-- R63: which command words and which positions are refused, and under which name. -/
def Obligations.ReservedEncodingsRefused : Prop :=
  (∀ w : CmdWord, decodeCommand w = .error .badOpcode ↔ (w.toNat / 2 ^ 32 = 0 ∨ 0xB ≤ w.toNat / 2 ^ 32)) ∧
  (∀ w : CmdWord, decodeCommand w = .error .nonzeroArg ↔
    (w.toNat / 2 ^ 32 ∈ [0x1, 0x3, 0x4, 0x5, 0x6, 0x9, 0xA] ∧ w.toNat % 2 ^ 32 ≠ 0)) ∧
  (∀ p : PhaseCode, decodePhase p = .error .badPhase ↔ (p = 6 ∨ p = 7))

/-- The words of spec/95_test_vectors.md V1, V2, V4, V5 and the positions of R64. -/
def Obligations.SpecWordsDecode : Prop :=
  decodeTableWord 40 0x100000000 = some .restart ∧ decodeTableWord 40 0x200000019 = some (.push 25) ∧
  decodeTableWord 40 0x300000000 = some .activate ∧ decodeTableWord 40 0x7FFFFFFFF = some (.setmode 0xFFFFFFFF) ∧
  decodeTableWord 40 0x801000000 = some (.decode 0x1000000) ∧ decodeTableWord 40 0xA00000000 = some .unpark ∧
  decodeTableWord 40 0x000000000 = none ∧ decodeTableWord 40 0x500000019 = none ∧
  decodeTableWord 8 0 = some .uFetch ∧ decodeTableWord 8 3 = some .uLo ∧ decodeTableWord 8 6 = none

/-! ### Steps -/

/-- R45, R48, R90: a step runs the instruction at the port, or the micro-step whose code is `PHASE`, and adds `settle`: the
chip's chance to fall asleep and the environment's next choices (logs 2, 10). -/
def Obligations.StepRunsDecodedInstruction : Prop :=
  (∀ (s : State) (w : CmdWord) (i u : Instr), decodePhase s.block.phase = .ok u → s.env.turn = .host →
    s.host.port = some w → decodeCommand w = .ok i → step s = settled s (exec i s)) ∧
  (∀ (s : State) (u : Instr), decodePhase s.block.phase = .ok u → s.env.turn = .sequencer →
    step s = settled s (exec u s)) ∧
  (∀ (s t : State), (settle s t).block = t.block ∧ (settle s t).host = t.host ∧ (settle s t).par = t.par ∧
    (settle s t).env = Env.draw t.tick ∧ (settle s t).tick = t.tick + 1 ∧
    (settle s t).chip = { t.chip with asleep := (settle s t).chip.asleep } ∧
    ((settle s t).chip.asleep ≠ t.chip.asleep → s.block.clk = true ∧ t.block.clk = true))

/-- R63 (c) and R13: a state whose `PHASE` holds a reserved code is refused; R63 (a), (b): so is a reserved command word. -/
def Obligations.StepRefusesReservedWords : Prop :=
  (∀ s : State, s.block.phase = 6 ∨ s.block.phase = 7 → step s = .refused .badPhase) ∧
  (∀ (s : State) (w : CmdWord) (e : DecodeError), s.block.phase.toNat < 6 → s.env.turn = .host →
    s.host.port = some w → decodeCommand w = .error e → step s = .refused (refusalOf e))

/-- R127, R168: a command of a second host context has no meaning (log 13). -/
def Obligations.SecondContextRefused : Prop :=
  ∀ s : State, s.block.phase.toNat < 6 → s.env.turn = .foreign → s.host.foreign ≠ [] →
    step s = .refused .interleavedSequences

/-! ### Reset -/

/-- R29, R160: every element of the block after reset, and the chip unknown; and `resetBlock` gives the same on any state. Of
the two readings of R160 the values of R29 are the model's choice (log 6), and so is an operation that resets any state and
leaves the host and the parameters alone (log 22). -/
def Obligations.ResetValues : Prop :=
  State.reset.block.mode.toNat = 1 ∧ State.reset.block.act = false ∧ State.reset.block.phase = Phase.start ∧
  State.reset.block.cnt = 0 ∧ State.reset.block.sr = 0 ∧ State.reset.block.rdy = .finite 0 ∧
  State.reset.block.clk = false ∧ State.reset.block.inq = [] ∧ State.reset.block.outq = [] ∧
  outNE State.reset.block = false ∧ inFull State.reset.par State.reset.block = false ∧
  (State.reset.chip.mode = none ∧ State.reset.chip.next = none ∧ State.reset.chip.value = none ∧
    State.reset.chip.bit = none ∧ State.reset.chip.asleep = none) ∧
  ∀ s : State, (resetBlock s).block = State.reset.block ∧ (resetBlock s).chip = Chip.unknown s.chip.conforms ∧
    (resetBlock s).host = s.host ∧ (resetBlock s).par = s.par

/-- Every invariant stated below holds after reset, and the parameters keep the constraints of R6. The reset values are the
model's choices: of the block log 6, of the host log 11, of the host's copy of the mode log 12 (1, the spec gives none), and
open parameters within R6 log 1. -/
def Obligations.ResetMeetsInvariants : Prop :=
  State.reset.par.wellFormed = true ∧ ClockFollowsPhase State.reset ∧ QueuesWithinDepth State.reset ∧
  EmittedWordsKnown State.reset ∧ BudgetNotExceeded State.reset ∧ CopyAgrees State.reset ∧ ChipPlaceLegal State.reset

/-! ### Host commands -/

/-- R76: RESTART. -/
def Obligations.RestartGoesToStart : Prop :=
  ∀ s : State, ∃ t : State, exec .restart s = .next t ∧
    t.block = { s.block with phase := Phase.start, clk := false, cnt := 0, sr := 0, rdy := .finite 0 } ∧
    t.host = { s.host with port := none, resp := some .nothing } ∧ t.par = s.par ∧ t.env = s.env ∧ t.tick = s.tick ∧
    (s.block.phase ∈ [Phase.hi, Phase.lo, Phase.waitrdy, Phase.emit] →
      t.chip.mode = none ∧ t.chip.next = none ∧ t.chip.value = none) ∧
    (s.block.phase = Phase.start → s.block.clk = false → t.chip = s.chip)

/-- R83: UNPARK is RESTART's effect in every phase, and after it a chip whose clock was high is awake and unknown. -/
def Obligations.UnparkActsAsRestart : Prop :=
  ∀ s : State, exec .unpark s = exec .restart s ∧
    ∃ t : State, exec .unpark s = .next t ∧
      t.block = { s.block with phase := Phase.start, clk := false, cnt := 0, sr := 0, rdy := .finite 0 } ∧
      t.host = { s.host with port := none, resp := some .nothing } ∧ t.par = s.par ∧ t.env = s.env ∧ t.tick = s.tick ∧
      (s.block.clk = true →
        t.chip.asleep = some false ∧ t.chip.mode = none ∧ t.chip.next = none ∧ t.chip.value = none)

/-- R77: PUSH appends any word while there is room; on a full queue it holds, the state unchanged, the command at the port.
-/
def Obligations.PushAppendsOrHolds : Prop :=
  ∀ (s : State) (v : Word),
    (s.block.inq.length < s.par.inqDepth →
      exec (.push v) s = .next { s with
        block := { s.block with inq := s.block.inq ++ [v] }
        host := { s.host with port := none, resp := some .nothing } }) ∧
    (s.block.inq.length = s.par.inqDepth → exec (.push v) s = .next s)

/-- R78: ACTIVATE. -/
def Obligations.ActivateSetsAct : Prop :=
  ∀ s : State, exec .activate s = .next { s with
    block := { s.block with act := true }
    host := { s.host with port := none, resp := some .nothing } }

/-- R79: DEACTIVATE changes `ACT` alone (what it does to the chip in the middle of a train is `ChipFollowsThePins`). -/
def Obligations.DeactivateFreezes : Prop :=
  ∀ s : State, ∃ t : State, exec .deactivate s = .next t ∧
    t.block = { s.block with act := false } ∧
    t.host = { s.host with port := none, resp := some .nothing } ∧ t.par = s.par ∧ t.env = s.env ∧ t.tick = s.tick

/-- R80: POLL answers whether `OUTQ` holds a word, and changes no state of the block. -/
def Obligations.PollAnswersOccupancy : Prop :=
  ∀ s : State, exec .poll s = .next { s with
    host := { s.host with port := none, resp := some (.flag (if s.block.outq = [] then false else true)) } }

/-- R81: POP removes the head and returns it unchanged; on an empty queue it has no meaning. -/
def Obligations.PopReturnsHead : Prop :=
  (∀ (s : State) (w : Word) (q : List Word), s.block.outq = w :: q →
    exec .pop s = .next { s with
      block := { s.block with outq := q }
      host := { s.host with port := none, resp := some (.word w) } }) ∧
  (∀ s : State, s.block.outq = [] → exec .pop s = .refused .popEmpty)

/-- R82: PARK raises the clock and stays, whatever `ACT` and the phase; a train it cuts short leaves the chip unknown. -/
def Obligations.ParkRaisesClock : Prop :=
  ∀ s : State, ∃ t : State, exec .park s = .next t ∧
    t.block = { s.block with phase := Phase.parked, clk := true } ∧
    t.host = { s.host with port := none, resp := some .nothing } ∧ t.par = s.par ∧ t.env = s.env ∧ t.tick = s.tick ∧
    (s.block.phase ∈ [Phase.hi, Phase.lo, Phase.waitrdy, Phase.emit] →
      t.chip.mode = none ∧ t.chip.next = none ∧ t.chip.value = none) ∧
    (s.block.phase ∈ [Phase.start, Phase.parked] → t.chip = s.chip)

/-- R105, R106: SETMODE writes the coerced value, silently, and touches nothing of the sequencer (the host's own copy of the
mode is the matter of `HostCopyNeverDrifts`). -/
def Obligations.SetmodeCoerces : Prop :=
  ∀ (s : State) (v : Word), ∃ (t : State) (m : Mode),
    m.toNat = (if v = 1 ∨ v = 2 ∨ v = 3 then v.toNat else 1) ∧ exec (.setmode v) s = .next t ∧
    t.block = { s.block with mode := m } ∧
    t.host = { s.host with port := none, resp := some .nothing, modeCopy := t.host.modeCopy } ∧
    t.chip = s.chip ∧ t.par = s.par ∧ t.env = s.env ∧ t.tick = s.tick

/-- R108, R109, R58: DECODE answers the failure exactly on the sentinel, else the sample in two's complement; no state of the
block changes. -/
def Obligations.DecodeAnswersSampleOrFailure : Prop :=
  ∀ (s : State) (w : Word),
    (w = s.par.sentinel → exec (.decode w) s = .next { s with
      host := { s.host with port := none, resp := some (.failure .sensorNotResponding) } }) ∧
    (w ≠ s.par.sentinel → ∃ r : Word, r.toInt = sampleOf w.toNat s.block.mode ∧
      exec (.decode w) s = .next { s with
        host := { s.host with port := none, resp := some (.sample r) } })

/-- R30: SETMODE, DEACTIVATE and RESTART establish every reset value but the queues. -/
def Obligations.CommandsEstablishReset : Prop :=
  ∀ s : State, ∃ t : State, execAll [.setmode 1, .deactivate, .restart] s = .next t ∧
    t.block = { Block.reset with inq := s.block.inq, outq := s.block.outq }

/-! ### Micro-steps -/

/-- R90, R12: with `ACT = 0` no micro-step is enabled in any phase. -/
def Obligations.DeactivatedTakesNoStep : Prop :=
  ∀ (s : State) (p : PhaseCode) (u : Instr), s.block.act = false → decodePhase p = .ok u → exec u s = .next s

/-- R91: u.FETCH. -/
def Obligations.FetchTakesCount : Prop :=
  ∀ s : State, s.block.act = true →
    (s.block.inq = [] → exec .uFetch s = .next s) ∧
    (∀ (n : Word) (q : List Word), s.block.inq = n :: q →
      (n ∈ [25, 26, 27] → exec .uFetch s = .next { s with
        block := { s.block with inq := q, cnt := n, sr := 0, rdy := s.par.readyBudget, phase := Phase.waitrdy } }) ∧
      (n ∉ [25, 26, 27] → exec .uFetch s = .refused .badCount))

/-- R92: u.WAITRDY, all its samples and budgets. The sample is the environment's level (R18, R25). -/
def Obligations.WaitReadyWatchesLevel : Prop :=
  ∀ s : State, s.block.act = true →
    (s.env.data = false → ∃ t : State, exec .uWaitrdy s = .next t ∧ t.block = { s.block with phase := Phase.hi } ∧
      t.host = s.host ∧ t.par = s.par ∧ t.env = s.env ∧ t.tick = s.tick) ∧
    (s.env.data = true → s.block.rdy = .finite 0 → exec .uWaitrdy s = .next { s with
      block := { s.block with sr := s.par.sentinel, phase := Phase.emit } }) ∧
    (∀ n : Nat, s.env.data = true → s.block.rdy = .finite (n + 1) → exec .uWaitrdy s = .next { s with
      block := { s.block with rdy := .finite n } }) ∧
    (s.env.data = true → s.block.rdy = .unbounded → exec .uWaitrdy s = .next s)

/-- R93: u.HI. -/
def Obligations.HiRaisesClock : Prop :=
  ∀ s : State, s.block.act = true →
    exec .uHi s = .next { s with block := { s.block with clk := true, phase := Phase.lo } }

/-- R94: u.LO. `CNT` is never 0 on entry (R94 (b)); what a decrement of 0 would leave is not stated here (log 5). -/
def Obligations.LoSamplesAndLowersClock : Prop :=
  ∀ s : State, s.block.act = true → ∃ t : State, exec .uLo s = .next t ∧
    t.block.sr.toNat = (2 * s.block.sr.toNat + (samplePulse s).toNat) % 2 ^ 32 ∧
    t.block.clk = false ∧
    t.block.phase = (if s.block.cnt = 1 then Phase.emit else Phase.hi) ∧
    (s.block.cnt ≠ 0 → t.block.cnt.toNat = s.block.cnt.toNat - 1) ∧
    t.block = { s.block with sr := t.block.sr, clk := false, phase := t.block.phase, cnt := t.block.cnt } ∧
    t.chip.conforms = s.chip.conforms ∧ t.host = s.host ∧ t.par = s.par ∧ t.env = s.env ∧ t.tick = s.tick

/-- R95: u.EMIT. -/
def Obligations.EmitAppendsOrHolds : Prop :=
  ∀ s : State, s.block.act = true →
    (s.block.outq.length < s.par.outqDepth → exec .uEmit s = .next { s with
      block := { s.block with outq := s.block.outq ++ [s.block.sr], phase := Phase.start } }) ∧
    (s.block.outq.length = s.par.outqDepth → exec .uEmit s = .next s)

/-- R96: u.PARKED waits, whatever `ACT` is. -/
def Obligations.ParkedWaits : Prop := ∀ s : State, exec .uParked s = .next s

/-- R26, R27, R28: what a conforming chip that is awake presents on pulse `i`: bit `24 - i` of `c_value`, and nothing certain
on the mode pulses; asleep, or with its value or its place unknown, nothing certain on any; without the premise every sample
is the environment's (R18). How the chip is held is the model's choice (log 7). -/
def Obligations.PulseSamples : Prop :=
  (∀ (s : State) (v : BitVec 24) (i : Nat), s.chip.conforms = true → s.chip.asleep = some false →
    s.chip.value = some v → s.chip.bit = some (i - 1) → 1 ≤ i →
    samplePulse s = if i ≤ 24 then v.getLsbD (24 - i) else s.env.data) ∧
  (∀ s : State, s.chip.conforms = true →
    s.chip.asleep ≠ some false ∨ s.chip.value = none ∨ s.chip.bit = none → samplePulse s = s.env.data) ∧
  (∀ s : State, s.chip.conforms = false → samplePulse s = s.env.data)

/-- R24, R26, R27, R28: what each command and micro-step does to the chip's own state, every case of it. Where its place in a
train is set and counted is the model's choice (logs 7 and 8), and so is what a clock lowered by RESTART or UNPARK leaves
(log 9). -/
def Obligations.ChipFollowsThePins : Prop :=
  ∀ (i : Instr) (s t : State), exec i s = .next t →
    (i ∉ [.restart, .unpark, .park, .deactivate, .uWaitrdy, .uLo] → t.chip = s.chip) ∧
    (i = .restart ∨ i = .unpark → t.chip =
      if s.block.clk then { s.chip with mode := none, next := none, value := none, bit := none, asleep := some false }
      else if s.block.phase ∈ [Phase.waitrdy, Phase.hi, Phase.lo, Phase.emit] then
        { s.chip with mode := none, next := none, value := none, bit := none }
      else s.chip) ∧
    (i = .park → t.chip =
      if s.block.phase ∈ [Phase.waitrdy, Phase.hi, Phase.lo, Phase.emit] then
        { s.chip with mode := none, next := none, value := none, bit := none }
      else s.chip) ∧
    (i = .deactivate → t.chip =
      if s.block.phase ∈ [Phase.hi, Phase.lo] then
        { s.chip with mode := none, next := none, value := none, bit := none }
      else s.chip) ∧
    (i = .uWaitrdy ∨ i = .uLo → s.block.act = false → t.chip = s.chip) ∧
    (i = .uWaitrdy → s.block.act = true → s.env.data = false → t.chip = { s.chip with bit := some 0 }) ∧
    (i = .uWaitrdy → s.env.data = true → t.chip = s.chip) ∧
    (i = .uLo → s.block.act = true → s.chip.asleep = some true →
      t.chip = { s.chip with mode := none, next := none, value := none, bit := none, asleep := some false }) ∧
    (i = .uLo → s.block.act = true → s.chip.asleep ≠ some true → s.block.cnt ≠ 1 →
      t.chip = { s.chip with bit := s.chip.bit.map (· + 1), asleep := some false }) ∧
    (∀ m : Mode, i = .uLo → s.block.act = true → s.chip.asleep ≠ some true → s.block.cnt = 1 →
      s.chip.bit = some (23 + m.toNat) →
      t.chip = { s.chip with mode := some m, next := some m, value := some s.env.conv, bit := some 0, asleep := some false }) ∧
    (i = .uLo → s.block.act = true → s.chip.asleep ≠ some true → s.block.cnt = 1 →
      (∀ m : Mode, s.chip.bit ≠ some (23 + m.toNat)) →
      t.chip = { s.chip with mode := none, next := none, value := none, bit := none, asleep := some false })

/-- R28: the chip falls asleep only in a step that finds and leaves the clock high; when the clock falls it is awake, and if
it slept its mode, next mode and value are unknown. That such a step is the only moment is the model's choice (logs 9 and
10). -/
def Obligations.SleepFollowsClock : Prop :=
  ∀ s t : State, step s = .next t →
    (s.chip.asleep ≠ some true → t.chip.asleep = some true → s.block.clk = true ∧ t.block.clk = true) ∧
    (s.block.clk = true → t.block.clk = false → t.chip.asleep = some false ∧
      (s.chip.asleep = some true → t.chip.mode = none ∧ t.chip.next = none ∧ t.chip.value = none))

/-- R98: the successor of every position, for each micro-step and for each host command. -/
def Obligations.PhaseSuccessors : Prop :=
  (∀ (s t : State) (u : Instr), s.block.act = true → decodePhase s.block.phase = .ok u → exec u s = .next t →
    (s.block.phase = Phase.start → t.block.phase = (if s.block.inq = [] then Phase.start else Phase.waitrdy)) ∧
    (s.block.phase = Phase.waitrdy → t.block.phase =
      (if s.env.data = false then Phase.hi else if s.block.rdy = .finite 0 then Phase.emit else Phase.waitrdy)) ∧
    (s.block.phase = Phase.hi → t.block.phase = Phase.lo) ∧
    (s.block.phase = Phase.lo → t.block.phase = (if s.block.cnt = 1 then Phase.emit else Phase.hi)) ∧
    (s.block.phase = Phase.emit → t.block.phase =
      (if s.block.outq.length < s.par.outqDepth then Phase.start else Phase.emit)) ∧
    (s.block.phase = Phase.parked → t.block.phase = Phase.parked)) ∧
  (∀ (s t : State) (w : CmdWord) (i : Instr), decodeCommand w = .ok i → exec i s = .next t →
    t.block.phase = if i = .restart ∨ i = .unpark then Phase.start else if i = .park then Phase.parked else s.block.phase)

/-! ### Rules of the whole machine -/

/-- R10 with R76 and R83: only the instructions named write each of the nine elements of the block, and none changes the
parameters, or whether the chip conforms (the flag is the model's, log 7). -/
def Obligations.WritersOfEachElement : Prop :=
  ∀ (i : Instr) (s t : State), exec i s = .next t →
    (t.block.mode ≠ s.block.mode → ∃ v, i = .setmode v) ∧
    (t.block.act ≠ s.block.act → i = .activate ∨ i = .deactivate) ∧
    (t.block.phase ≠ s.block.phase → i ∈ [.uFetch, .uWaitrdy, .uHi, .uLo, .uEmit, .restart, .park, .unpark]) ∧
    (t.block.cnt ≠ s.block.cnt → i ∈ [.uFetch, .uLo, .restart, .unpark]) ∧
    (t.block.sr ≠ s.block.sr → i ∈ [.uFetch, .uWaitrdy, .uLo, .restart, .unpark]) ∧
    (t.block.rdy ≠ s.block.rdy → i ∈ [.uFetch, .uWaitrdy, .restart, .unpark]) ∧
    (t.block.clk ≠ s.block.clk → i ∈ [.uHi, .uLo, .restart, .park, .unpark]) ∧
    (t.block.inq ≠ s.block.inq → i = .uFetch ∨ ∃ v, i = .push v) ∧
    (t.block.outq ≠ s.block.outq → i = .uEmit ∨ i = .pop) ∧
    t.par = s.par ∧ t.chip.conforms = s.chip.conforms

/-- R99 (a) (the spec's own inference from the rules of the instructions): the clock rises only in u.HI and PARK, and falls
only in u.LO, RESTART and UNPARK. -/
def Obligations.ClockEdgesOnlyWhereNamed : Prop :=
  ∀ (i : Instr) (s t : State), exec i s = .next t →
    (s.block.clk = false → t.block.clk = true → i = .uHi ∨ i = .park) ∧
    (s.block.clk = true → t.block.clk = false → i = .uLo ∨ i = .restart ∨ i = .unpark)

/-- R41: words leave a queue in the order they entered it: PUSHes append in order, and the k-th POP returns the k-th word. -/
def Obligations.QueuesKeepOrder : Prop :=
  (∀ (vs : List Word) (s : State), s.block.inq.length + vs.length ≤ s.par.inqDepth →
    ∃ t : State, execAll (vs.map Instr.push) s = .next t ∧
      t.block = { s.block with inq := s.block.inq ++ vs } ∧ t.chip = s.chip ∧ t.par = s.par) ∧
  (∀ (ws rest : List Word) (w : Word) (s : State), s.block.outq = ws ++ w :: rest →
    ∃ t : State, execAll (List.replicate (ws.length + 1) Instr.pop) s = .next t ∧
      t.host.resp = some (.word w) ∧
      t.block = { s.block with outq := rest } ∧ t.chip = s.chip ∧ t.par = s.par)

/-- R51, U11: a host held in a PUSH that no u.FETCH can lift stays held. -/
def Obligations.HungHostStaysHung : Prop :=
  ∀ s t : State, hostHung s = true → step s = .next t → hostHung t = true ∧ t.block = s.block

/-- R90, R98, R174: a micro-step that is not enabled leaves the state unchanged, and at rest none is enabled. -/
def Obligations.DisabledMicroStepWaits : Prop :=
  (∀ (s : State) (u : Instr), microEnabled s = false → decodePhase s.block.phase = .ok u → exec u s = .next s) ∧
  (∀ s : State, atRest s = true → microEnabled s = false)

/-- R139: exactly which steps are refused: a reserved position, a reserved command word, a POP of an empty queue, a count
outside 25 .. 27, a second context's command, and a name the host program never bound (log 23). -/
def Obligations.RefusedExactlyWhereNamed : Prop :=
  ∀ s : State, safeOutcome (step s) = false ↔
    (s.block.phase = 6 ∨ s.block.phase = 7) ∨
    (s.env.turn = .host ∧ ∃ w, s.host.port = some w ∧
      ((∃ e, decodeCommand w = .error e) ∨ (decodeCommand w = .ok .pop ∧ s.block.outq = []))) ∨
    (s.env.turn = .host ∧ s.host.port = none ∧ s.host.line ≠ none ∧
      ∃ c rest, s.host.seq = .issue c :: rest ∧ commandWord s.host c = none) ∨
    (s.env.turn = .sequencer ∧ s.block.act = true ∧ s.block.phase = Phase.start ∧
      ∃ n q, s.block.inq = n :: q ∧ n ∉ [25, 26, 27]) ∨
    (s.env.turn = .foreign ∧ s.host.foreign ≠ [])

/-- R174: a final state stays final, its block unchanged, in every step. -/
def Obligations.FinalStatesStayFinal : Prop :=
  ∀ s t : State, final s = true → step s = .next t → final t = true ∧ t.block = s.block ∧ t.host = s.host

/-- R142, R137 (what goes on after it is the model's choice, log 14): DECODE's failure ends the host sequence: it is
recorded, the rest of the line is dropped, the block is as the command left it, and a program without a handler has ended. -/
def Obligations.FailureEndsSequence : Prop :=
  ∀ (s : State) (l : Line) (rest : List SeqStep), s.host.port = none → s.host.line = some l →
    s.host.seq = .take :: rest → s.host.resp = some (.failure .sensorNotResponding) →
    ∃ t : State, hostAdvance s = .next t ∧ t.block = s.block ∧ t.chip = s.chip ∧
      t.host.failure = some .sensorNotResponding ∧ t.host.line = none ∧ t.host.seq = [] ∧
      t.host.prog = if l.handled then s.host.prog else []

/-! ### Arithmetic of the decoder -/

/-- R112: decode of encode is the sample, on the closed range, for every mode and mode bits. -/
def Obligations.SampleRoundTrip : Prop :=
  ∀ (m : Mode) (x : Int) (g : Nat), -(2 ^ 23) ≤ x → x ≤ 2 ^ 23 - 1 → g < 2 ^ m.toNat →
    decodeSample (encodeSample x m g) m = x ∧ (encodeSample x m g).toNat < 2 ^ (24 + m.toNat)

/-- R111 (1), R108: the property of DOC0 §8 in the form that holds; the result is `sext_24` of the payload. -/
def Obligations.DecodeOfRawWord : Prop :=
  ∀ (m : Mode) (r g : Nat), r < 2 ^ 24 → g < 2 ^ m.toNat →
    decodeSample (BitVec.ofNat 32 (r * 2 ^ m.toNat + g)) m = (if 2 ^ 23 - 1 < r then (r : Int) - 2 ^ 24 else (r : Int)) ∧
    decodeSample (BitVec.ofNat 32 (r * 2 ^ m.toNat + g)) m = sext24 (BitVec.ofNat 24 r)

/-! ### Invariants that every step keeps -/

/-- R17's invariant (marked there as the spec's own inference): `CLK = 1` exactly when `PHASE` is `LO` or `PARKED`. -/
def Obligations.ClockFollowsPhaseAlways : Prop :=
  ∀ s t : State, ClockFollowsPhase s → step s = .next t → ClockFollowsPhase t

/-- R52's invariant (marked there as the spec's own inference): the queues stay within their depths. -/
def Obligations.QueuesWithinDepthAlways : Prop :=
  ∀ s t : State, QueuesWithinDepth s → step s = .next t → QueuesWithinDepth t

/-- R56, R57, R14: the registers of a train stay within bounds, and every word put in `OUTQ` is below `2^27` or the sentinel,
so no completed train can produce a sentinel that is at least `2^27`. -/
def Obligations.EmittedWordsKnownAlways : Prop :=
  ∀ s t : State, EmittedWordsKnown s → step s = .next t → EmittedWordsKnown t

/-- R16: `RDY` stays at most `READY_BUDGET`. -/
def Obligations.BudgetNotExceededAlways : Prop :=
  ∀ s t : State, BudgetNotExceeded s → step s = .next t → BudgetNotExceeded t

/-- R11: the host's copy of the mode cannot drift, and SETMODE brings it to the mode whatever it was (that the copy is
written in SETMODE's own step is the model's, log 12). -/
def Obligations.HostCopyNeverDrifts : Prop :=
  (∀ s t : State, CopyAgrees s → step s = .next t → CopyAgrees t) ∧
  (∀ (s t : State) (v : Word), exec (.setmode v) s = .next t → CopyAgrees t)

/-- R24: the chip's place in a train stays within 0 .. 27 (how the chip's place is followed is the model's, logs 7 and 8). -/
def Obligations.ChipPlaceLegalAlways : Prop :=
  ∀ s t : State, ChipPlaceLegal s → step s = .next t → ChipPlaceLegal t

/-! ### Acquisitions and host sequences -/

/-- R97 (1), (5) and R99 (b) (the spec's own inference from R91 to R95; a schedule of turns is the model's form, log 3): an
activated sequencer in `START` with count `24 + mode` at the head of `INQ`, with any quiet turns of others in between, takes
`1 + (k + 1) + 2N + 1` micro-steps, emits exactly N pulses, and appends the word of the N samples. The chip may be any whose
samples are free (logs 7, 8); one that delivers a value is `ConformingChipDeliversValue`. -/
def Obligations.AcquisitionEmitsRawWord : Prop :=
  ∀ (s : State) (es : List Env) (m : Mode) (k : Nat) (bits : List Bool) (q : List Word),
    s.block.act = true → s.block.phase = Phase.start → s.block.clk = false → s.block.inq = count m :: q →
    s.block.outq.length < s.par.outqDepth → samplesFree s.chip →
    (Budget.finite k).atMost s.par.readyBudget = true → bits.length = 24 + m.toNat →
    sequencerSees (acquisitionLevels k bits) (turnsOf .sequencer es) → othersQuiet es s →
    (turnsOf .sequencer es).length = 1 + (k + 1) + 2 * (24 + m.toNat) + 1 ∧
    rises es s = 24 + m.toNat ∧ falls es s = 24 + m.toNat ∧
    ∃ (t : State) (w : Word), run es s = .next t ∧ w.toNat = rawOf bits ∧ w.toNat < 2 ^ (24 + m.toNat) ∧
      t.block.outq = s.block.outq ++ [w] ∧ t.block.inq = q ∧ t.block.phase = Phase.start ∧ t.block.clk = false ∧
      t.block.act = true ∧ t.block.mode = s.block.mode ∧ t.par = s.par ∧
      ((∀ e ∈ es, e.turn = .sequencer) → t.host = s.host)

/-- R97 (3), (5) (the spec's own inference; schedules, log 3): with the first `READY_BUDGET + 1` samples high, and any quiet
turns of others in between, the sequencer emits no pulse and appends the sentinel, in `1 + (READY_BUDGET + 1) + 1`
micro-steps. -/
def Obligations.SilentChipGivesSentinel : Prop :=
  ∀ (s : State) (es : List Env) (m : Mode) (k : Nat) (q : List Word),
    s.block.act = true → s.block.phase = Phase.start → s.block.clk = false → s.block.inq = count m :: q →
    s.block.outq.length < s.par.outqDepth → s.par.readyBudget = .finite k →
    sequencerSees (sentinelLevels k) (turnsOf .sequencer es) → othersQuiet es s →
    (turnsOf .sequencer es).length = 1 + (k + 1) + 1 ∧ rises es s = 0 ∧ falls es s = 0 ∧
    ∃ t : State, run es s = .next t ∧ t.block.outq = s.block.outq ++ [s.par.sentinel] ∧ t.block.inq = q ∧
      t.block.phase = Phase.start ∧ t.block.clk = false ∧ t.block.act = true ∧ t.block.mode = s.block.mode ∧
      t.par = s.par ∧ ((∀ e ∈ es, e.turn = .sequencer) → t.host = s.host)

/-- R97 (4) (the spec's own inference; schedules, log 3): with an infinite budget and the line never low the sequencer takes
its count, waits for ever and appends nothing, with any quiet turns of others in between. -/
def Obligations.UnboundedWaitEmitsNothing : Prop :=
  (∀ (s : State) (es : List Env) (k : Nat),
    s.block.act = true → s.block.phase = Phase.waitrdy → s.block.rdy = .unbounded →
    sequencerSees (List.replicate k (some true)) (turnsOf .sequencer es) → othersQuiet es s →
    rises es s = 0 ∧ ∃ t : State, run es s = .next t ∧ t.block = s.block) ∧
  (∀ (s : State) (es : List Env) (m : Mode) (k : Nat) (q : List Word),
    s.block.act = true → s.block.phase = Phase.start → s.block.inq = count m :: q → s.par.readyBudget = .unbounded →
    sequencerSees (none :: List.replicate k (some true)) (turnsOf .sequencer es) → othersQuiet es s →
    rises es s = 0 ∧ ∃ t : State, run es s = .next t ∧
      t.block = { s.block with inq := q, cnt := count m, sr := 0, rdy := .unbounded, phase := Phase.waitrdy })

/-- R97 (1), (2), (5), R26, R27 (the chip's place is the model's choice, logs 7 and 8): with a conforming chip that is awake,
is not put to sleep meanwhile and holds `v`, and any quiet turns of others in between, the sequencer takes `1 + (k + 1) + 2N
+ 1` micro-steps, emits exactly N pulses and appends the word `v · 2^mode + g`; the train selects the mode of the conversion
the next train reads. -/
def Obligations.ConformingChipDeliversValue : Prop :=
  ∀ (s : State) (es : List Env) (m : Mode) (k : Nat) (v : BitVec 24) (q : List Word),
    s.block.act = true → s.block.phase = Phase.start → s.block.clk = false → s.block.inq = count m :: q →
    s.block.outq.length < s.par.outqDepth → s.chip.conforms = true → s.chip.asleep = some false →
    s.chip.value = some v → (Budget.finite k).atMost s.par.readyBudget = true →
    sequencerSees (freePulseLevels k (24 + m.toNat)) (turnsOf .sequencer es) → othersQuiet es s →
    (∀ e ∈ es, e.sleeps = false) →
    (turnsOf .sequencer es).length = 1 + (k + 1) + 2 * (24 + m.toNat) + 1 ∧
    rises es s = 24 + m.toNat ∧ falls es s = 24 + m.toNat ∧
    ∃ (t : State) (g : Nat) (w : Word), run es s = .next t ∧ g < 2 ^ m.toNat ∧
      w.toNat = v.toNat * 2 ^ m.toNat + g ∧ t.block.outq = s.block.outq ++ [w] ∧ t.block.inq = q ∧
      t.chip.mode = some m ∧ t.chip.next = some m ∧ t.chip.asleep = some false ∧
      t.block.phase = Phase.start ∧ t.block.clk = false ∧ t.block.act = true ∧ t.block.mode = s.block.mode ∧ t.par = s.par

/-- R120, R136, R142 (the host's own steps are the model's, logs 11, 14 and 20): READ with the sequencer never scheduled
issues `POLL_BUDGET` polls, deactivates and raises `SensorTimeout`, and leaves the state of the timeout row: the pushed count
is still in `INQ`. -/
def Obligations.StarvedReadTimesOut : Prop :=
  ∀ (s : State) (es : List Env) (l : Line) (rest : List Line),
    s.block.phase.toNat < 6 → s.host.port = none → s.host.line = none → s.host.prog = l :: rest → l.op = .read →
    CopyAgrees s → 1 ≤ s.par.pollBudget → s.block.inq.length < s.par.inqDepth → s.block.outq = [] →
    hostOnly es → es.length = 10 + 3 * s.par.pollBudget →
    ∃ t : State, run es s = .next t ∧ t.host.failure = some .sensorTimeout ∧ t.host.line = none ∧ t.host.port = none ∧
      t.host.prog = (if l.handled then rest else []) ∧
      t.block = { s.block with
        act := false, phase := Phase.start, clk := false, cnt := 0, sr := 0, rdy := .finite 0
        inq := s.block.inq ++ [count s.block.mode] }

/-- R165: a READ that finds a word in `OUTQ` returns that word's sample as its own, whatever the sequencer has done; left
alone meanwhile, it still has the pushed count in `INQ`. The host's own steps are the model's (log 11). -/
def Obligations.StaleWordReturned : Prop :=
  ∀ (s : State) (es : List Env) (l : Line) (rest : List Line) (w : Word) (q : List Word),
    s.block.phase.toNat < 6 → s.host.port = none → s.host.line = none → s.host.prog = l :: rest → l.op = .read →
    CopyAgrees s → s.block.inq.length < s.par.inqDepth → s.block.outq = w :: q → w ≠ s.par.sentinel →
    hostOnly es → es.length = 17 →
    ∃ t : State, run es s = .next t ∧ t.host.result.toInt = sampleOf w.toNat s.block.mode ∧ t.host.line = none ∧
      t.host.prog = rest ∧ t.host.failure = s.host.failure ∧
      t.block = { s.block with
        act := true, phase := Phase.start, clk := false, cnt := 0, sr := 0, rdy := .finite 0
        inq := s.block.inq ++ [count s.block.mode], outq := q }

/-- R123 to R126: POWER_DOWN, POWER_UP, SET_MODE and CONSTRUCT run from first to last in five steps of the host and do what
PARK, UNPARK and SETMODE do, whatever operand form gives the mode. The host's own steps are the model's (log 11), and so is
its own copy of the mode, which SETMODE's step writes (log 12). -/
def Obligations.PowerAndModeLinesRun : Prop :=
  ∀ (s : State) (es : List Env) (l : Line) (rest : List Line),
    s.block.phase.toNat < 6 → s.host.port = none → s.host.line = none → s.host.prog = l :: rest →
    hostOnly es → es.length = 5 →
    (l.op = .powerDown → ∃ t : State, run es s = .next t ∧ t.host.line = none ∧ t.host.port = none ∧ t.host.prog = rest ∧
      t.block = { s.block with phase := Phase.parked, clk := true }) ∧
    (l.op = .powerUp → ∃ t : State, run es s = .next t ∧ t.host.line = none ∧ t.host.port = none ∧ t.host.prog = rest ∧
      t.block = { s.block with phase := Phase.start, clk := false, cnt := 0, sr := 0, rdy := .finite 0 }) ∧
    (∀ (o : Operand) (v : Word), operandValue s.host o = some v → l.op = .setMode o ∨ l.op = .construct o →
      ∃ (t : State) (m : Mode), run es s = .next t ∧ t.host.line = none ∧ t.host.port = none ∧ t.host.prog = rest ∧
        m.toNat = (if v = 1 ∨ v = 2 ∨ v = 3 then v.toNat else 1) ∧
        t.block = { s.block with mode := m } ∧ t.host.modeCopy = m)

/-- R120, R121 (a) (the host's own steps are the model's, log 11): READ, launched with both queues empty, whose acquisition
completes before its last POLL, returns the sample of the N = 24 + `MODE` samples and leaves the state of the step 8 row. The
chip is one whose samples are free, or one that RESTART leaves so by cutting a train or lowering the clock (logs 7 to 9).
Schedules: from the execution of its RESTART to the end of its line the turns of host, sequencer and a second context with
nothing to issue (log 13) may fall in any order, a sequencer left active may fetch before ACTIVATE (R171), and before that
RESTART the sequencer is at rest or the host alone moves. `j` is how many turns the host has taken since that RESTART when
the word comes. -/
def Obligations.ReadReturnsSample : Prop :=
  ∀ (s : State) (es₁ es₂ es₃ : List Env) (e : Env) (l : Line) (rest : List Line) (j k : Nat) (bits : List Bool),
    s.block.phase.toNat < 6 → s.host.port = none → s.host.line = none → s.host.prog = l :: rest → l.op = .read →
    s.host.foreign = [] → CopyAgrees s → s.par.wellFormed = true → s.block.inq = [] → s.block.outq = [] →
    samplesFree s.chip ∨ s.block.clk = true ∨ Phase.acquiring s.block.phase = true →
    (Budget.finite k).atMost s.par.readyBudget = true → bits.length = 24 + s.block.mode.toNat →
    atRest s = true ∨ hostOnly es₁ → (turnsOf .host es₁).length = 3 →
    sequencerSees (acquisitionLevels k bits) (turnsOnceHostTook (if s.block.act then 2 else 4) (es₂ ++ [e])) →
    e.turn = .sequencer → (turnsOf .host es₂).length = j → j ≤ 3 * s.par.pollBudget + 2 →
    (turnsOf .host es₃).length = turnsToFlag j + 7 →
    ∃ t : State, run (es₁ ++ (es₂ ++ [e]) ++ es₃) s = .next t ∧
      t.host.result.toInt = sampleOf (rawOf bits) s.block.mode ∧
      t.host.line = none ∧ t.host.port = none ∧ t.host.prog = rest ∧ t.host.failure = s.host.failure ∧
      (∀ n, l.bind = some n → lookup n t.host.vars = some t.host.result) ∧
      t.block.act = true ∧ t.block.phase = Phase.start ∧ t.block.clk = false ∧
      t.block.inq = [] ∧ t.block.outq = [] ∧ t.block.mode = s.block.mode

/-- R121 (a), its half for a conforming chip, with R27 (the host's own steps are the model's, log 11, the chip's place too,
logs 7 and 8): READ, launched in `START` with the clock low and both queues empty, of a conforming chip that is awake, is not
put to sleep and holds `v` returns `sext_24(v)` and selects the mode of the conversion the next READ gets. Schedules: from
the line's first turn to its last the turns of host, sequencer and a second context with nothing to issue (log 13) may fall
in any order, and a sequencer left active may fetch before ACTIVATE (R171). `j` is as in `ReadReturnsSample`. -/
def Obligations.ReadReturnsConversion : Prop :=
  ∀ (s : State) (es₁ es₂ es₃ : List Env) (e : Env) (l : Line) (rest : List Line) (j k : Nat) (v : BitVec 24),
    s.block.phase = Phase.start → s.block.clk = false → s.host.port = none → s.host.line = none → s.host.prog = l :: rest →
    l.op = .read → s.host.foreign = [] → CopyAgrees s → s.par.wellFormed = true → s.block.inq = [] → s.block.outq = [] →
    s.chip.conforms = true → s.chip.asleep = some false → s.chip.value = some v →
    (Budget.finite k).atMost s.par.readyBudget = true → (turnsOf .host es₁).length = 3 →
    sequencerSees (freePulseLevels k (24 + s.block.mode.toNat))
      (turnsOnceHostTook (if s.block.act then 2 else 4) (es₂ ++ [e])) →
    e.turn = .sequencer → (∀ x ∈ es₂, x.sleeps = false) →
    (turnsOf .host es₂).length = j → j ≤ 3 * s.par.pollBudget + 2 →
    (turnsOf .host es₃).length = turnsToFlag j + 7 →
    ∃ t : State, run (es₁ ++ (es₂ ++ [e]) ++ es₃) s = .next t ∧
      t.host.result.toInt = sext24 v ∧ t.chip.mode = some s.block.mode ∧ t.chip.next = some s.block.mode ∧
      t.host.line = none ∧ t.host.port = none ∧ t.host.prog = rest ∧ t.host.failure = s.host.failure ∧
      (∀ n, l.bind = some n → lookup n t.host.vars = some t.host.result) ∧
      t.block.act = true ∧ t.block.phase = Phase.start ∧ t.block.clk = false ∧
      t.block.inq = [] ∧ t.block.outq = [] ∧ t.block.mode = s.block.mode

/-- R120, R121 (b), R137 (the host's own steps are the model's, logs 11 and 14): READ whose chip stays not ready through a
finite budget that runs out before its last POLL raises `SensorNotResponding`. Schedules: from the execution of its RESTART
to the end of its line the turns of host, sequencer and a second context with nothing to issue (log 13) may fall in any
order, a sequencer left active may fetch before ACTIVATE (R171), and before that RESTART the sequencer is at rest or the host
alone moves. `j` is how many turns the host has taken since that RESTART when the word comes. -/
def Obligations.ReadRaisesNotResponding : Prop :=
  ∀ (s : State) (es₁ es₂ es₃ : List Env) (e : Env) (l : Line) (rest : List Line) (j k : Nat),
    s.block.phase.toNat < 6 → s.host.port = none → s.host.line = none → s.host.prog = l :: rest → l.op = .read →
    s.host.foreign = [] → CopyAgrees s → s.par.wellFormed = true → s.block.inq = [] → s.block.outq = [] →
    s.par.readyBudget = .finite k → atRest s = true ∨ hostOnly es₁ → (turnsOf .host es₁).length = 3 →
    sequencerSees (sentinelLevels k) (turnsOnceHostTook (if s.block.act then 2 else 4) (es₂ ++ [e])) →
    e.turn = .sequencer → (turnsOf .host es₂).length = j → j ≤ 3 * s.par.pollBudget + 2 →
    (turnsOf .host es₃).length = turnsToFlag j + 6 →
    ∃ t : State, run (es₁ ++ (es₂ ++ [e]) ++ es₃) s = .next t ∧
      t.host.failure = some .sensorNotResponding ∧ t.host.line = none ∧ t.host.port = none ∧
      t.host.prog = (if l.handled then rest else []) ∧
      t.block.act = true ∧ t.block.phase = Phase.start ∧ t.block.clk = false ∧
      t.block.inq = [] ∧ t.block.outq = [] ∧ t.block.mode = s.block.mode

/-- R121 (c), R170 (the host's own steps are the model's, logs 11, 14 and 20): READ of a chip that never becomes ready, with
an infinite ready budget, times out after `POLL_BUDGET` polls; the count is still in `INQ`, or the sequencer stopped in its
ready wait. Schedules: from the execution of its RESTART to the end of its line the turns of host, sequencer and a second
context with nothing to issue (log 13) may fall in any order, a sequencer left active may fetch before ACTIVATE (R171), and
before that RESTART the sequencer is at rest or the host alone moves. -/
def Obligations.UnreadyReadTimesOut : Prop :=
  ∀ (s : State) (es₁ es₂ : List Env) (l : Line) (rest : List Line),
    s.block.phase.toNat < 6 → s.host.port = none → s.host.line = none → s.host.prog = l :: rest → l.op = .read →
    s.host.foreign = [] → CopyAgrees s → s.par.wellFormed = true → s.block.inq = [] → s.block.outq = [] →
    s.par.readyBudget = .unbounded → atRest s = true ∨ hostOnly es₁ → (turnsOf .host es₁).length = 3 →
    (∀ e ∈ es₂, e.turn = .sequencer → e.data = true) → (turnsOf .host es₂).length = 4 + 3 * s.par.pollBudget + 3 →
    ∃ t : State, run (es₁ ++ es₂) s = .next t ∧
      t.host.failure = some .sensorTimeout ∧ t.host.line = none ∧ t.host.port = none ∧
      t.host.prog = (if l.handled then rest else []) ∧
      t.block.act = false ∧ t.block.clk = false ∧ t.block.outq = [] ∧ t.block.mode = s.block.mode ∧
      (t.block.phase = Phase.start ∧ t.block.inq = [count s.block.mode] ∨
        t.block.phase = Phase.waitrdy ∧ t.block.inq = [])

/-- R122 (the host's own steps are the model's, logs 11 and 14): a TEMPERATURE whose first READ times out ends at once with
that failure and leaves `MODE` at 2. -/
def Obligations.FailedTemperatureLeavesModeTwo : Prop :=
  ∀ (s : State) (es : List Env) (l : Line) (rest : List Line),
    s.block.phase.toNat < 6 → s.host.port = none → s.host.line = none → s.host.prog = l :: rest →
    l.op = .temperature → 1 ≤ s.par.pollBudget → s.block.inq.length < s.par.inqDepth → s.block.outq = [] →
    hostOnly es → es.length = 13 + 3 * s.par.pollBudget →
    ∃ t : State, run es s = .next t ∧ t.host.failure = some .sensorTimeout ∧ t.host.line = none ∧
      t.host.prog = (if l.handled then rest else []) ∧ t.block.mode = .two ∧ t.block.act = false ∧
      t.block.inq = s.block.inq ++ [26]

/-- R122 (the host's own steps are the model's, log 11): a TEMPERATURE whose three READs complete performs trains of 26, 26
and 24 + p pulses, returns the second READ's sample, and leaves `MODE` as it found it. The host alone moves through each
ACTIVATE and once each word has come, and the sequencer alone in between. -/
def Obligations.TemperatureReturnsSecondSample : Prop :=
  ∀ (s : State) (h₁ h₂ h₃ h₄ q₁ q₂ q₃ : List Env) (l : Line) (rest : List Line) (k₁ k₂ k₃ : Nat)
    (bits₁ bits₂ bits₃ : List Bool),
    s.block.phase.toNat < 6 → s.host.port = none → s.host.line = none → s.host.prog = l :: rest →
    l.op = .temperature → CopyAgrees s → s.par.wellFormed = true → s.block.inq = [] → s.block.outq = [] →
    s.chip.conforms = false →
    (Budget.finite k₁).atMost s.par.readyBudget = true → (Budget.finite k₂).atMost s.par.readyBudget = true →
    (Budget.finite k₃).atMost s.par.readyBudget = true →
    bits₁.length = 26 → bits₂.length = 26 → bits₃.length = 24 + s.block.mode.toNat →
    hostOnly h₁ → h₁.length = 10 → sequencerSees (acquisitionLevels k₁ bits₁) q₁ →
    hostOnly h₂ → h₂.length = 15 → sequencerSees (acquisitionLevels k₂ bits₂) q₂ →
    hostOnly h₃ → h₃.length = 18 → sequencerSees (acquisitionLevels k₃ bits₃) q₃ →
    hostOnly h₄ → h₄.length = 11 →
    ∃ t : State, run (h₁ ++ q₁ ++ h₂ ++ q₂ ++ h₃ ++ q₃ ++ h₄) s = .next t ∧
      t.host.result.toInt = sampleOf (rawOf bits₂) .two ∧ t.block.mode = s.block.mode ∧
      t.host.line = none ∧ t.host.prog = rest ∧ t.host.failure = s.host.failure ∧
      t.block.act = true ∧ t.block.phase = Phase.start ∧ t.block.clk = false ∧ t.block.inq = [] ∧ t.block.outq = []

/-- R122 with R27 (the host's own steps are the model's, log 11, the chip's place too, logs 7 and 8): TEMPERATURE with a
conforming chip that is awake and holds a value returns the conversion the chip had ready after the first train, which it
then held as one of mode 2, and leaves the chip's next conversion in the mode found. The host alone moves through each
ACTIVATE and once each word has come, and the sequencer alone in between. -/
def Obligations.TemperatureReturnsModeTwoConversion : Prop :=
  ∀ (s : State) (h₁ h₂ h₃ h₄ q₁ q₂ q₃ : List Env) (lo emit : Env) (l : Line) (rest : List Line) (k₁ k₂ k₃ : Nat)
    (v : BitVec 24),
    s.block.phase = Phase.start → s.block.clk = false → s.host.port = none → s.host.line = none → s.host.prog = l :: rest →
    l.op = .temperature → CopyAgrees s → s.par.wellFormed = true → s.block.inq = [] → s.block.outq = [] →
    s.chip.conforms = true → s.chip.asleep = some false → s.chip.value = some v →
    (Budget.finite k₁).atMost s.par.readyBudget = true → (Budget.finite k₂).atMost s.par.readyBudget = true →
    (Budget.finite k₃).atMost s.par.readyBudget = true →
    hostOnly h₁ → h₁.length = 10 → sequencerSees (freePulseLevels k₁ 26) (q₁ ++ [lo, emit]) →
    hostOnly h₂ → h₂.length = 15 → sequencerSees (freePulseLevels k₂ 26) q₂ →
    hostOnly h₃ → h₃.length = 18 → sequencerSees (freePulseLevels k₃ (24 + s.block.mode.toNat)) q₃ →
    hostOnly h₄ → h₄.length = 11 →
    (∃ u : State, run (h₁ ++ (q₁ ++ [lo, emit])) s = .next u ∧ u.chip.mode = some .two ∧ u.chip.value = some lo.conv) ∧
    ∃ t : State, run (h₁ ++ (q₁ ++ [lo, emit]) ++ h₂ ++ q₂ ++ h₃ ++ q₃ ++ h₄) s = .next t ∧
      t.host.result.toInt = sext24 lo.conv ∧ t.chip.mode = some s.block.mode ∧ t.block.mode = s.block.mode ∧
      t.host.line = none ∧ t.host.prog = rest ∧ t.host.failure = s.host.failure ∧
      t.block.act = true ∧ t.block.phase = Phase.start ∧ t.block.clk = false ∧ t.block.inq = [] ∧ t.block.outq = []
end

