-- ==== Sys2Proof/Laws/Decode.lean ====
section
/-! SUPPORT. The fields of a command word (spec/30_encoding.md R60, R62) and the shapes of the decoder's answers. -/

namespace Sys2Proof

/-- The fields of a word put together are the fields. -/
theorem opOf_cmdWord (op : BitVec 4) (a : Word) : opOf (cmdWord op a) = op := by
  apply BitVec.eq_of_toNat_eq
  simp only [opOf, cmdWord, BitVec.extractLsb'_toNat, BitVec.toNat_append]
  rw [← Nat.shiftLeft_add_eq_or_of_lt a.isLt, Nat.shiftLeft_eq, Nat.shiftRight_eq_div_pow]
  have := a.isLt
  have := op.isLt
  omega

theorem argOf_cmdWord (op : BitVec 4) (a : Word) : argOf (cmdWord op a) = a := by
  apply BitVec.eq_of_toNat_eq
  simp only [argOf, cmdWord, BitVec.extractLsb'_toNat, BitVec.toNat_append]
  rw [← Nat.shiftLeft_add_eq_or_of_lt a.isLt, Nat.shiftLeft_eq, Nat.shiftRight_eq_div_pow]
  have := a.isLt
  have := op.isLt
  omega

/-- A command word is its two fields. -/
theorem cmdWord_fields (w : CmdWord) : cmdWord (opOf w) (argOf w) = w := by
  apply BitVec.eq_of_toNat_eq
  simp only [opOf, argOf, cmdWord, BitVec.extractLsb'_toNat, BitVec.toNat_append]
  rw [← Nat.shiftLeft_add_eq_or_of_lt (by omega), Nat.shiftLeft_eq, Nat.shiftRight_eq_div_pow]
  have := w.isLt
  omega

theorem opOf_toNat (w : CmdWord) : (opOf w).toNat = w.toNat / 2 ^ 32 := by
  simp only [opOf, BitVec.extractLsb'_toNat, Nat.shiftRight_eq_div_pow]
  have := w.isLt
  omega

theorem argOf_toNat (w : CmdWord) : (argOf w).toNat = w.toNat % 2 ^ 32 := by
  simp only [argOf, BitVec.extractLsb'_toNat, Nat.shiftRight_eq_div_pow]
  omega

theorem noOperand_eq_ok {a : Word} {i j : Instr} : noOperand a i = .ok j ↔ a = 0 ∧ i = j := by
  unfold noOperand
  split <;> simp_all

theorem noOperand_eq_error {a : Word} {i : Instr} {e : DecodeError} :
    noOperand a i = .error e ↔ a ≠ 0 ∧ e = .nonzeroArg := by
  unfold noOperand
  split
  · exact ⟨fun h => (by cases h), fun h => absurd ‹_› h.1⟩
  · constructor
    · intro h
      cases h
      exact ⟨‹_›, rfl⟩
    · rintro ⟨-, rfl⟩
      rfl

/-- The micro-steps by their positions (R64). -/
theorem decodePhase_cases {p : PhaseCode} {u : Instr} (h : decodePhase p = .ok u) :
    (p = 0 ∧ u = .uFetch) ∨ (p = 1 ∧ u = .uWaitrdy) ∨ (p = 2 ∧ u = .uHi) ∨ (p = 3 ∧ u = .uLo) ∨
      (p = 4 ∧ u = .uEmit) ∨ (p = 5 ∧ u = .uParked) := by
  have hp : ∀ n, p.toNat = n → p = BitVec.ofNat 3 n := fun n hn => by rw [← hn]; simp
  unfold decodePhase at h
  split at h <;> rename_i hn <;> cases h <;> simp [hp _ hn]

/-- A position below 6 decodes (R13). -/
theorem decodePhase_of_lt {p : PhaseCode} (h : p.toNat < 6) : ∃ u, decodePhase p = .ok u := by
  obtain h | h | h | h | h | h : p.toNat = 0 ∨ p.toNat = 1 ∨ p.toNat = 2 ∨ p.toNat = 3 ∨ p.toNat = 4 ∨ p.toNat = 5 := by
    omega
  all_goals exact ⟨_, by simp only [decodePhase, h]; rfl⟩

/-- No command word decodes to a micro-step (R61). -/
theorem decodeCommand_command {w : CmdWord} {i : Instr} (h : decodeCommand w = .ok i) :
    i ∉ [.uFetch, .uWaitrdy, .uHi, .uLo, .uEmit, .uParked] := by
  unfold decodeCommand noOperand at h
  split at h <;> (try split at h) <;> cases h <;> simp

end Sys2Proof
end

