-- ==== Sys2Proof/Laws/State.lean ====
section
/-! SUPPORT. What each update of the state leaves in each field: true by `rfl`, so that no later proof unfolds an update. -/

namespace Sys2Proof.Machine

variable (s : State)

/-! `setMode` -/

@[simp] theorem State.setMode_mode (v : Mode) : (s.setMode v).block.mode = v := rfl
@[simp] theorem State.setMode_act (v : Mode) : (s.setMode v).block.act = s.block.act := rfl
@[simp] theorem State.setMode_phase (v : Mode) : (s.setMode v).block.phase = s.block.phase := rfl
@[simp] theorem State.setMode_cnt (v : Mode) : (s.setMode v).block.cnt = s.block.cnt := rfl
@[simp] theorem State.setMode_sr (v : Mode) : (s.setMode v).block.sr = s.block.sr := rfl
@[simp] theorem State.setMode_rdy (v : Mode) : (s.setMode v).block.rdy = s.block.rdy := rfl
@[simp] theorem State.setMode_clk (v : Mode) : (s.setMode v).block.clk = s.block.clk := rfl
@[simp] theorem State.setMode_inq (v : Mode) : (s.setMode v).block.inq = s.block.inq := rfl
@[simp] theorem State.setMode_outq (v : Mode) : (s.setMode v).block.outq = s.block.outq := rfl
@[simp] theorem State.setMode_chip (v : Mode) : (s.setMode v).chip = s.chip := rfl
@[simp] theorem State.setMode_host (v : Mode) : (s.setMode v).host = s.host := rfl
@[simp] theorem State.setMode_par (v : Mode) : (s.setMode v).par = s.par := rfl
@[simp] theorem State.setMode_env (v : Mode) : (s.setMode v).env = s.env := rfl
@[simp] theorem State.setMode_tick (v : Mode) : (s.setMode v).tick = s.tick := rfl

/-! `setAct` -/

@[simp] theorem State.setAct_mode (v : Bool) : (s.setAct v).block.mode = s.block.mode := rfl
@[simp] theorem State.setAct_act (v : Bool) : (s.setAct v).block.act = v := rfl
@[simp] theorem State.setAct_phase (v : Bool) : (s.setAct v).block.phase = s.block.phase := rfl
@[simp] theorem State.setAct_cnt (v : Bool) : (s.setAct v).block.cnt = s.block.cnt := rfl
@[simp] theorem State.setAct_sr (v : Bool) : (s.setAct v).block.sr = s.block.sr := rfl
@[simp] theorem State.setAct_rdy (v : Bool) : (s.setAct v).block.rdy = s.block.rdy := rfl
@[simp] theorem State.setAct_clk (v : Bool) : (s.setAct v).block.clk = s.block.clk := rfl
@[simp] theorem State.setAct_inq (v : Bool) : (s.setAct v).block.inq = s.block.inq := rfl
@[simp] theorem State.setAct_outq (v : Bool) : (s.setAct v).block.outq = s.block.outq := rfl
@[simp] theorem State.setAct_chip (v : Bool) : (s.setAct v).chip = s.chip := rfl
@[simp] theorem State.setAct_host (v : Bool) : (s.setAct v).host = s.host := rfl
@[simp] theorem State.setAct_par (v : Bool) : (s.setAct v).par = s.par := rfl
@[simp] theorem State.setAct_env (v : Bool) : (s.setAct v).env = s.env := rfl
@[simp] theorem State.setAct_tick (v : Bool) : (s.setAct v).tick = s.tick := rfl

/-! `setPhase` -/

@[simp] theorem State.setPhase_mode (v : PhaseCode) : (s.setPhase v).block.mode = s.block.mode := rfl
@[simp] theorem State.setPhase_act (v : PhaseCode) : (s.setPhase v).block.act = s.block.act := rfl
@[simp] theorem State.setPhase_phase (v : PhaseCode) : (s.setPhase v).block.phase = v := rfl
@[simp] theorem State.setPhase_cnt (v : PhaseCode) : (s.setPhase v).block.cnt = s.block.cnt := rfl
@[simp] theorem State.setPhase_sr (v : PhaseCode) : (s.setPhase v).block.sr = s.block.sr := rfl
@[simp] theorem State.setPhase_rdy (v : PhaseCode) : (s.setPhase v).block.rdy = s.block.rdy := rfl
@[simp] theorem State.setPhase_clk (v : PhaseCode) : (s.setPhase v).block.clk = s.block.clk := rfl
@[simp] theorem State.setPhase_inq (v : PhaseCode) : (s.setPhase v).block.inq = s.block.inq := rfl
@[simp] theorem State.setPhase_outq (v : PhaseCode) : (s.setPhase v).block.outq = s.block.outq := rfl
@[simp] theorem State.setPhase_chip (v : PhaseCode) : (s.setPhase v).chip = s.chip := rfl
@[simp] theorem State.setPhase_host (v : PhaseCode) : (s.setPhase v).host = s.host := rfl
@[simp] theorem State.setPhase_par (v : PhaseCode) : (s.setPhase v).par = s.par := rfl
@[simp] theorem State.setPhase_env (v : PhaseCode) : (s.setPhase v).env = s.env := rfl
@[simp] theorem State.setPhase_tick (v : PhaseCode) : (s.setPhase v).tick = s.tick := rfl

/-! `setCnt` -/

@[simp] theorem State.setCnt_mode (v : Word) : (s.setCnt v).block.mode = s.block.mode := rfl
@[simp] theorem State.setCnt_act (v : Word) : (s.setCnt v).block.act = s.block.act := rfl
@[simp] theorem State.setCnt_phase (v : Word) : (s.setCnt v).block.phase = s.block.phase := rfl
@[simp] theorem State.setCnt_cnt (v : Word) : (s.setCnt v).block.cnt = v := rfl
@[simp] theorem State.setCnt_sr (v : Word) : (s.setCnt v).block.sr = s.block.sr := rfl
@[simp] theorem State.setCnt_rdy (v : Word) : (s.setCnt v).block.rdy = s.block.rdy := rfl
@[simp] theorem State.setCnt_clk (v : Word) : (s.setCnt v).block.clk = s.block.clk := rfl
@[simp] theorem State.setCnt_inq (v : Word) : (s.setCnt v).block.inq = s.block.inq := rfl
@[simp] theorem State.setCnt_outq (v : Word) : (s.setCnt v).block.outq = s.block.outq := rfl
@[simp] theorem State.setCnt_chip (v : Word) : (s.setCnt v).chip = s.chip := rfl
@[simp] theorem State.setCnt_host (v : Word) : (s.setCnt v).host = s.host := rfl
@[simp] theorem State.setCnt_par (v : Word) : (s.setCnt v).par = s.par := rfl
@[simp] theorem State.setCnt_env (v : Word) : (s.setCnt v).env = s.env := rfl
@[simp] theorem State.setCnt_tick (v : Word) : (s.setCnt v).tick = s.tick := rfl

/-! `setSr` -/

@[simp] theorem State.setSr_mode (v : Word) : (s.setSr v).block.mode = s.block.mode := rfl
@[simp] theorem State.setSr_act (v : Word) : (s.setSr v).block.act = s.block.act := rfl
@[simp] theorem State.setSr_phase (v : Word) : (s.setSr v).block.phase = s.block.phase := rfl
@[simp] theorem State.setSr_cnt (v : Word) : (s.setSr v).block.cnt = s.block.cnt := rfl
@[simp] theorem State.setSr_sr (v : Word) : (s.setSr v).block.sr = v := rfl
@[simp] theorem State.setSr_rdy (v : Word) : (s.setSr v).block.rdy = s.block.rdy := rfl
@[simp] theorem State.setSr_clk (v : Word) : (s.setSr v).block.clk = s.block.clk := rfl
@[simp] theorem State.setSr_inq (v : Word) : (s.setSr v).block.inq = s.block.inq := rfl
@[simp] theorem State.setSr_outq (v : Word) : (s.setSr v).block.outq = s.block.outq := rfl
@[simp] theorem State.setSr_chip (v : Word) : (s.setSr v).chip = s.chip := rfl
@[simp] theorem State.setSr_host (v : Word) : (s.setSr v).host = s.host := rfl
@[simp] theorem State.setSr_par (v : Word) : (s.setSr v).par = s.par := rfl
@[simp] theorem State.setSr_env (v : Word) : (s.setSr v).env = s.env := rfl
@[simp] theorem State.setSr_tick (v : Word) : (s.setSr v).tick = s.tick := rfl

/-! `setRdy` -/

@[simp] theorem State.setRdy_mode (v : Budget) : (s.setRdy v).block.mode = s.block.mode := rfl
@[simp] theorem State.setRdy_act (v : Budget) : (s.setRdy v).block.act = s.block.act := rfl
@[simp] theorem State.setRdy_phase (v : Budget) : (s.setRdy v).block.phase = s.block.phase := rfl
@[simp] theorem State.setRdy_cnt (v : Budget) : (s.setRdy v).block.cnt = s.block.cnt := rfl
@[simp] theorem State.setRdy_sr (v : Budget) : (s.setRdy v).block.sr = s.block.sr := rfl
@[simp] theorem State.setRdy_rdy (v : Budget) : (s.setRdy v).block.rdy = v := rfl
@[simp] theorem State.setRdy_clk (v : Budget) : (s.setRdy v).block.clk = s.block.clk := rfl
@[simp] theorem State.setRdy_inq (v : Budget) : (s.setRdy v).block.inq = s.block.inq := rfl
@[simp] theorem State.setRdy_outq (v : Budget) : (s.setRdy v).block.outq = s.block.outq := rfl
@[simp] theorem State.setRdy_chip (v : Budget) : (s.setRdy v).chip = s.chip := rfl
@[simp] theorem State.setRdy_host (v : Budget) : (s.setRdy v).host = s.host := rfl
@[simp] theorem State.setRdy_par (v : Budget) : (s.setRdy v).par = s.par := rfl
@[simp] theorem State.setRdy_env (v : Budget) : (s.setRdy v).env = s.env := rfl
@[simp] theorem State.setRdy_tick (v : Budget) : (s.setRdy v).tick = s.tick := rfl

/-! `setClk` -/

@[simp] theorem State.setClk_mode (v : Bool) : (s.setClk v).block.mode = s.block.mode := rfl
@[simp] theorem State.setClk_act (v : Bool) : (s.setClk v).block.act = s.block.act := rfl
@[simp] theorem State.setClk_phase (v : Bool) : (s.setClk v).block.phase = s.block.phase := rfl
@[simp] theorem State.setClk_cnt (v : Bool) : (s.setClk v).block.cnt = s.block.cnt := rfl
@[simp] theorem State.setClk_sr (v : Bool) : (s.setClk v).block.sr = s.block.sr := rfl
@[simp] theorem State.setClk_rdy (v : Bool) : (s.setClk v).block.rdy = s.block.rdy := rfl
@[simp] theorem State.setClk_clk (v : Bool) : (s.setClk v).block.clk = v := rfl
@[simp] theorem State.setClk_inq (v : Bool) : (s.setClk v).block.inq = s.block.inq := rfl
@[simp] theorem State.setClk_outq (v : Bool) : (s.setClk v).block.outq = s.block.outq := rfl
@[simp] theorem State.setClk_chip (v : Bool) : (s.setClk v).chip = s.chip := rfl
@[simp] theorem State.setClk_host (v : Bool) : (s.setClk v).host = s.host := rfl
@[simp] theorem State.setClk_par (v : Bool) : (s.setClk v).par = s.par := rfl
@[simp] theorem State.setClk_env (v : Bool) : (s.setClk v).env = s.env := rfl
@[simp] theorem State.setClk_tick (v : Bool) : (s.setClk v).tick = s.tick := rfl

/-! `setInq` -/

@[simp] theorem State.setInq_mode (v : List Word) : (s.setInq v).block.mode = s.block.mode := rfl
@[simp] theorem State.setInq_act (v : List Word) : (s.setInq v).block.act = s.block.act := rfl
@[simp] theorem State.setInq_phase (v : List Word) : (s.setInq v).block.phase = s.block.phase := rfl
@[simp] theorem State.setInq_cnt (v : List Word) : (s.setInq v).block.cnt = s.block.cnt := rfl
@[simp] theorem State.setInq_sr (v : List Word) : (s.setInq v).block.sr = s.block.sr := rfl
@[simp] theorem State.setInq_rdy (v : List Word) : (s.setInq v).block.rdy = s.block.rdy := rfl
@[simp] theorem State.setInq_clk (v : List Word) : (s.setInq v).block.clk = s.block.clk := rfl
@[simp] theorem State.setInq_inq (v : List Word) : (s.setInq v).block.inq = v := rfl
@[simp] theorem State.setInq_outq (v : List Word) : (s.setInq v).block.outq = s.block.outq := rfl
@[simp] theorem State.setInq_chip (v : List Word) : (s.setInq v).chip = s.chip := rfl
@[simp] theorem State.setInq_host (v : List Word) : (s.setInq v).host = s.host := rfl
@[simp] theorem State.setInq_par (v : List Word) : (s.setInq v).par = s.par := rfl
@[simp] theorem State.setInq_env (v : List Word) : (s.setInq v).env = s.env := rfl
@[simp] theorem State.setInq_tick (v : List Word) : (s.setInq v).tick = s.tick := rfl

/-! `setOutq` -/

@[simp] theorem State.setOutq_mode (v : List Word) : (s.setOutq v).block.mode = s.block.mode := rfl
@[simp] theorem State.setOutq_act (v : List Word) : (s.setOutq v).block.act = s.block.act := rfl
@[simp] theorem State.setOutq_phase (v : List Word) : (s.setOutq v).block.phase = s.block.phase := rfl
@[simp] theorem State.setOutq_cnt (v : List Word) : (s.setOutq v).block.cnt = s.block.cnt := rfl
@[simp] theorem State.setOutq_sr (v : List Word) : (s.setOutq v).block.sr = s.block.sr := rfl
@[simp] theorem State.setOutq_rdy (v : List Word) : (s.setOutq v).block.rdy = s.block.rdy := rfl
@[simp] theorem State.setOutq_clk (v : List Word) : (s.setOutq v).block.clk = s.block.clk := rfl
@[simp] theorem State.setOutq_inq (v : List Word) : (s.setOutq v).block.inq = s.block.inq := rfl
@[simp] theorem State.setOutq_outq (v : List Word) : (s.setOutq v).block.outq = v := rfl
@[simp] theorem State.setOutq_chip (v : List Word) : (s.setOutq v).chip = s.chip := rfl
@[simp] theorem State.setOutq_host (v : List Word) : (s.setOutq v).host = s.host := rfl
@[simp] theorem State.setOutq_par (v : List Word) : (s.setOutq v).par = s.par := rfl
@[simp] theorem State.setOutq_env (v : List Word) : (s.setOutq v).env = s.env := rfl
@[simp] theorem State.setOutq_tick (v : List Word) : (s.setOutq v).tick = s.tick := rfl

/-! `setChip` -/

@[simp] theorem State.setChip_block (v : Chip) : (s.setChip v).block = s.block := rfl
@[simp] theorem State.setChip_chip (v : Chip) : (s.setChip v).chip = v := rfl
@[simp] theorem State.setChip_host (v : Chip) : (s.setChip v).host = s.host := rfl
@[simp] theorem State.setChip_par (v : Chip) : (s.setChip v).par = s.par := rfl
@[simp] theorem State.setChip_env (v : Chip) : (s.setChip v).env = s.env := rfl
@[simp] theorem State.setChip_tick (v : Chip) : (s.setChip v).tick = s.tick := rfl

/-! `setHost` -/

@[simp] theorem State.setHost_block (v : HostState) : (s.setHost v).block = s.block := rfl
@[simp] theorem State.setHost_chip (v : HostState) : (s.setHost v).chip = s.chip := rfl
@[simp] theorem State.setHost_host (v : HostState) : (s.setHost v).host = v := rfl
@[simp] theorem State.setHost_par (v : HostState) : (s.setHost v).par = s.par := rfl
@[simp] theorem State.setHost_env (v : HostState) : (s.setHost v).env = s.env := rfl
@[simp] theorem State.setHost_tick (v : HostState) : (s.setHost v).tick = s.tick := rfl

/-! `respond` -/

@[simp] theorem respond_block (r : Response) : (respond s r).block = s.block := rfl
@[simp] theorem respond_chip (r : Response) : (respond s r).chip = s.chip := rfl
@[simp] theorem respond_par (r : Response) : (respond s r).par = s.par := rfl
@[simp] theorem respond_env (r : Response) : (respond s r).env = s.env := rfl
@[simp] theorem respond_tick (r : Response) : (respond s r).tick = s.tick := rfl
@[simp] theorem respond_port (r : Response) : (respond s r).host.port = none := rfl
@[simp] theorem respond_resp (r : Response) : (respond s r).host.resp = some r := rfl
@[simp] theorem respond_prog (r : Response) : (respond s r).host.prog = s.host.prog := rfl
@[simp] theorem respond_line (r : Response) : (respond s r).host.line = s.host.line := rfl
@[simp] theorem respond_seq (r : Response) : (respond s r).host.seq = s.host.seq := rfl
@[simp] theorem respond_modeCopy (r : Response) : (respond s r).host.modeCopy = s.host.modeCopy := rfl
@[simp] theorem respond_word (r : Response) : (respond s r).host.word = s.host.word := rfl
@[simp] theorem respond_result (r : Response) : (respond s r).host.result = s.host.result := rfl
@[simp] theorem respond_kept (r : Response) : (respond s r).host.kept = s.host.kept := rfl
@[simp] theorem respond_saved (r : Response) : (respond s r).host.saved = s.host.saved := rfl
@[simp] theorem respond_vars (r : Response) : (respond s r).host.vars = s.host.vars := rfl
@[simp] theorem respond_failure (r : Response) : (respond s r).host.failure = s.host.failure := rfl
@[simp] theorem respond_foreign (r : Response) : (respond s r).host.foreign = s.host.foreign := rfl

/-! `raiseFailure` (R142): nothing of the block changes -/

@[simp] theorem raiseFailure_block (f : Failure) : (raiseFailure f s).block = s.block := rfl
@[simp] theorem raiseFailure_chip (f : Failure) : (raiseFailure f s).chip = s.chip := rfl
@[simp] theorem raiseFailure_par (f : Failure) : (raiseFailure f s).par = s.par := rfl
@[simp] theorem raiseFailure_env (f : Failure) : (raiseFailure f s).env = s.env := rfl
@[simp] theorem raiseFailure_tick (f : Failure) : (raiseFailure f s).tick = s.tick := rfl
@[simp] theorem raiseFailure_host_failure (f : Failure) : (raiseFailure f s).host.failure = some f := rfl
@[simp] theorem raiseFailure_host_seq (f : Failure) : (raiseFailure f s).host.seq = [] := rfl
@[simp] theorem raiseFailure_host_line (f : Failure) : (raiseFailure f s).host.line = none := rfl
@[simp] theorem raiseFailure_host_modeCopy (f : Failure) : (raiseFailure f s).host.modeCopy = s.host.modeCopy := rfl
@[simp] theorem raiseFailure_host_port (f : Failure) : (raiseFailure f s).host.port = s.host.port := rfl
@[simp] theorem raiseFailure_host_vars (f : Failure) : (raiseFailure f s).host.vars = s.host.vars := rfl
@[simp] theorem raiseFailure_host_foreign (f : Failure) : (raiseFailure f s).host.foreign = s.host.foreign := rfl

/-! `toStart` (R76, R83) -/

@[simp] theorem toStart_mode : (toStart s).block.mode = s.block.mode := rfl
@[simp] theorem toStart_act : (toStart s).block.act = s.block.act := rfl
@[simp] theorem toStart_phase : (toStart s).block.phase = Phase.start := rfl
@[simp] theorem toStart_cnt : (toStart s).block.cnt = 0 := rfl
@[simp] theorem toStart_sr : (toStart s).block.sr = 0 := rfl
@[simp] theorem toStart_rdy : (toStart s).block.rdy = .finite 0 := rfl
@[simp] theorem toStart_clk : (toStart s).block.clk = false := rfl
@[simp] theorem toStart_inq : (toStart s).block.inq = s.block.inq := rfl
@[simp] theorem toStart_outq : (toStart s).block.outq = s.block.outq := rfl
@[simp] theorem toStart_host : (toStart s).host = s.host := rfl
@[simp] theorem toStart_par : (toStart s).par = s.par := rfl
@[simp] theorem toStart_env : (toStart s).env = s.env := rfl
@[simp] theorem toStart_tick : (toStart s).tick = s.tick := rfl
@[simp] theorem toStart_chip : (toStart s).chip = s.chip.released s.block := rfl

/-! `redraw` -/

@[simp] theorem redraw_block : (redraw s).block = s.block := rfl
@[simp] theorem redraw_chip : (redraw s).chip = s.chip := rfl
@[simp] theorem redraw_host : (redraw s).host = s.host := rfl
@[simp] theorem redraw_par : (redraw s).par = s.par := rfl
@[simp] theorem redraw_env : (redraw s).env = Env.draw s.tick := rfl
@[simp] theorem redraw_tick : (redraw s).tick = s.tick + 1 := rfl

end Sys2Proof.Machine
end

