-- ==== Sys2Proof/Laws/Ops.lean ====
section
/-! SUPPORT. What each shared operation can do, said once: the queue primitives, the chip's events, `settle`, each meaning
that branches, the host between its commands, and one step. Proofs cite these lemmas instead of unfolding the operation. -/

namespace Sys2Proof.Machine

/-! ### Queues (R8, R51) -/

theorem qPush_eq_some {d : Nat} {q q' : List Word} {v : Word} :
    qPush d q v = some q' ↔ q.length < d ∧ q' = q ++ [v] := by
  unfold qPush
  split <;> simp_all [eq_comm]

theorem qPush_eq_none {d : Nat} {q : List Word} {v : Word} : qPush d q v = none ↔ d ≤ q.length := by
  unfold qPush
  split <;> simp_all

theorem qPop_eq_some {q q' : List Word} {w : Word} : qPop q = some (w, q') ↔ q = w :: q' := by
  cases q <;> simp [qPop]

theorem qPop_eq_none {q : List Word} : qPop q = none ↔ q = [] := by
  cases q <;> simp [qPop]

/-- A push keeps the capacity (R52). -/
theorem qPush_length_le {d : Nat} {q q' : List Word} {v : Word} (h : qPush d q v = some q') : q'.length ≤ d := by
  obtain ⟨hlt, rfl⟩ := qPush_eq_some.1 h
  simpa using hlt

/-- A pop keeps the capacity (R52). -/
theorem qPop_length_le {d : Nat} {q q' : List Word} {w : Word} (h : qPop q = some (w, q')) (hd : q.length ≤ d) :
    q'.length ≤ d := by
  obtain rfl := qPop_eq_some.1 h
  simp at hd
  omega

/-! ### Count words (R55, R107) -/

theorem countLegal_iff {n : Word} : countLegal n = true ↔ n = 25 ∨ n = 26 ∨ n = 27 := by
  simp [countLegal]

theorem countLegal_count (m : Mode) : countLegal (count m) = true := by cases m <;> decide

@[simp] theorem count_toNat (m : Mode) : (count m).toNat = 24 + m.toNat := by cases m <;> rfl

theorem modeOfPulses_count (m : Mode) : modeOfPulses (24 + m.toNat) = some m := by cases m <;> rfl

theorem modeOfPulses_isSome {n : Nat} (h₁ : 25 ≤ n) (h₂ : n ≤ 27) : ∃ m, modeOfPulses n = some m ∧ n = 24 + m.toNat := by
  obtain rfl | rfl | rfl : n = 25 ∨ n = 26 ∨ n = 27 := by omega
  · exact ⟨.one, rfl, rfl⟩
  · exact ⟨.two, rfl, rfl⟩
  · exact ⟨.three, rfl, rfl⟩

/-! ### The shift register (R42, R94) -/

theorem or_one_of_even {n : Nat} (h : n % 2 = 0) : n ||| 1 = n + 1 := by
  obtain ⟨k, rfl⟩ : ∃ k, n = 2 * k := ⟨n / 2, by omega⟩
  have := Nat.two_pow_add_eq_or_of_lt (i := 1) (b := 1) (by decide) k
  simpa using this.symm

/-- `((SR << 1) | b) mod 2^W` in arithmetic (R94, R110 (b)). -/
theorem shiftIn_toNat (sr : Word) (b : Bool) : (shiftIn sr b).toNat = (2 * sr.toNat + b.toNat) % 2 ^ 32 := by
  unfold shiftIn
  cases b
  · simp [BitVec.toNat_shiftLeft, Nat.shiftLeft_eq, Nat.mul_comm]
  · have h : (sr <<< 1).toNat % 2 = 0 := by simp [BitVec.toNat_shiftLeft, Nat.shiftLeft_eq]
    simp only [BitVec.toNat_or]
    rw [show ((BitVec.ofBool true).setWidth 32).toNat = 1 from rfl, or_one_of_even h]
    simp [BitVec.toNat_shiftLeft, Nat.shiftLeft_eq]
    omega

/-- While `SR` has room, the shift loses no bit (R94 (c)). -/
theorem shiftIn_toNat_of_lt {sr : Word} {b : Bool} {n : Nat} (h : sr.toNat < 2 ^ n) (hn : n < 32) :
    (shiftIn sr b).toNat = 2 * sr.toNat + b.toNat ∧ (shiftIn sr b).toNat < 2 ^ (n + 1) := by
  have hp : 2 ^ (n + 1) ≤ 2 ^ 32 := Nat.pow_le_pow_right (by decide) hn
  have hb : b.toNat ≤ 1 := by cases b <;> decide
  have : 2 * sr.toNat + b.toNat < 2 ^ (n + 1) := by rw [Nat.pow_succ]; omega
  rw [shiftIn_toNat, Nat.mod_eq_of_lt (by omega)]
  exact ⟨rfl, this⟩

/-- A decrement of a count that is not 0 (R94, R110 (c)). -/
theorem decrement_toNat {free cnt : Word} (h : cnt ≠ 0) : (decrement free cnt).toNat = cnt.toNat - 1 := by
  have : cnt.toNat ≠ 0 := fun h0 => h (BitVec.eq_of_toNat_eq (by simpa using h0))
  rw [decrement, if_neg h, BitVec.toNat_sub]
  have := cnt.isLt
  simp
  omega

/-! ### The chip (R24 to R28): no event changes whether it conforms -/

@[simp] theorem Chip.forget_conforms (c : Chip) : c.forget.conforms = c.conforms := rfl
@[simp] theorem Chip.forget_bit (c : Chip) : c.forget.bit = none := rfl
@[simp] theorem Chip.forget_asleep (c : Chip) : c.forget.asleep = c.asleep := rfl
@[simp] theorem Chip.trainStart_conforms (c : Chip) : c.trainStart.conforms = c.conforms := rfl
@[simp] theorem Chip.trainStart_bit (c : Chip) : c.trainStart.bit = some 0 := rfl

@[simp] theorem Chip.clockFell_conforms (c : Chip) : c.clockFell.conforms = c.conforms := by
  unfold Chip.clockFell; split <;> rfl

/-- After the clock has fallen the chip is awake (R28). -/
@[simp] theorem Chip.clockFell_asleep (c : Chip) : c.clockFell.asleep = some false := by
  unfold Chip.clockFell; split <;> rfl

/-- A chip that is awake loses nothing when the clock falls. -/
theorem Chip.clockFell_of_awake {c : Chip} (h : c.asleep = some false) : c.clockFell = c := by
  obtain ⟨_, _, _, _, a, _⟩ := c
  simp at h
  subst h
  rfl

/-- The chip's place is kept or lost when the clock falls. -/
theorem Chip.clockFell_bit (c : Chip) : c.clockFell.bit = c.bit ∨ c.clockFell.bit = none := by
  unfold Chip.clockFell; split <;> simp

@[simp] theorem Chip.trainEnd_conforms (c : Chip) (v : BitVec 24) : (c.trainEnd v).conforms = c.conforms := by
  unfold Chip.trainEnd; split <;> rfl

/-- After a train the chip's place is the beginning of the next, or unknown. -/
theorem Chip.trainEnd_bit (c : Chip) (v : BitVec 24) : (c.trainEnd v).bit = some 0 ∨ (c.trainEnd v).bit = none := by
  unfold Chip.trainEnd; split <;> simp

@[simp] theorem Chip.pulse_conforms (c : Chip) (last : Bool) (v : BitVec 24) :
    (c.pulse last v).conforms = c.conforms := by
  unfold Chip.pulse; split <;> simp

/-- After a pulse the chip is one pulse further, at the beginning of the next train, or lost. -/
theorem Chip.pulse_bit (c : Chip) (last : Bool) (v : BitVec 24) :
    (c.pulse last v).bit = none ∨ (last = true ∧ (c.pulse last v).bit = some 0) ∨
      (last = false ∧ ∃ k, c.bit = some k ∧ (c.pulse last v).bit = some (k + 1)) := by
  cases last
  · obtain h | h := c.clockFell_bit <;> cases hb : c.bit <;> simp [Chip.pulse, h, hb]
  · obtain h | h := Chip.trainEnd_bit { c.clockFell with bit := c.clockFell.bit.map (· + 1) } v
    · exact .inr (.inl ⟨rfl, h⟩)
    · exact .inl h

@[simp] theorem Chip.released_conforms (c : Chip) (b : Block) : (c.released b).conforms = c.conforms := by
  unfold Chip.released; split <;> split <;> rfl

/-- RESTART and UNPARK leave the chip's place alone, or lose it; in an acquisition they lose it. -/
theorem Chip.released_bit (c : Chip) (b : Block) :
    (c.released b).bit = if Phase.acquiring b.phase || b.clk then none else c.bit := by
  unfold Chip.released; split <;> split <;> simp_all

@[simp] theorem Chip.parked_conforms (c : Chip) (b : Block) : (c.parked b).conforms = c.conforms := by
  unfold Chip.parked; split <;> rfl

theorem Chip.parked_bit (c : Chip) (b : Block) :
    (c.parked b).bit = if Phase.acquiring b.phase then none else c.bit := by
  unfold Chip.parked; split <;> simp_all

@[simp] theorem Chip.frozen_conforms (c : Chip) (b : Block) : (c.frozen b).conforms = c.conforms := by
  unfold Chip.frozen; split <;> rfl

theorem Chip.frozen_bit (c : Chip) (b : Block) :
    (c.frozen b).bit = if Phase.inTrain b.phase then none else c.bit := by
  unfold Chip.frozen; split <;> simp_all

/-- Without the conforming-chip premise a pulse's sample is the environment's (R18). -/
theorem samplePulse_of_not_conforms {s : State} (h : s.chip.conforms = false) : samplePulse s = s.env.data := by
  simp [samplePulse, Chip.answer, h]

/-! ### Between the steps -/

theorem sleepBetween_cases (s t : State) :
    sleepBetween s t = t ∨
      (s.block.clk = true ∧ t.block.clk = true ∧ sleepBetween s t = t.setChip { t.chip with asleep := some true }) := by
  unfold sleepBetween
  split
  · simp_all
  · exact .inl rfl

@[simp] theorem settle_block (s t : State) : (settle s t).block = t.block := by
  obtain h | ⟨_, _, h⟩ := sleepBetween_cases s t <;> simp [settle, h]
@[simp] theorem settle_host (s t : State) : (settle s t).host = t.host := by
  obtain h | ⟨_, _, h⟩ := sleepBetween_cases s t <;> simp [settle, h]
@[simp] theorem settle_par (s t : State) : (settle s t).par = t.par := by
  obtain h | ⟨_, _, h⟩ := sleepBetween_cases s t <;> simp [settle, h]
@[simp] theorem settle_chip_bit (s t : State) : (settle s t).chip.bit = t.chip.bit := by
  obtain h | ⟨_, _, h⟩ := sleepBetween_cases s t <;> simp [settle, h]
@[simp] theorem settle_chip_conforms (s t : State) : (settle s t).chip.conforms = t.chip.conforms := by
  obtain h | ⟨_, _, h⟩ := sleepBetween_cases s t <;> simp [settle, h]

/-- Where the clock is low before or after, the step gives the chip no chance to sleep. -/
theorem settle_chip_of_low {s t : State} (h : s.block.clk = false ∨ t.block.clk = false) :
    (settle s t).chip = t.chip := by
  obtain h' | ⟨hs, ht, _⟩ := sleepBetween_cases s t
  · simp [settle, h']
  · simp_all

theorem settled_eq_next {s t : State} {r : Result} :
    settled s r = .next t ↔ ∃ t', r = .next t' ∧ t = settle s t' := by
  cases r <;> simp [settled, eq_comm]

/-! ### The meanings that branch -/

theorem whenActive_of_active {s : State} (h : s.block.act = true) (r : Result) : whenActive s r = r := by
  simp [whenActive, h]

theorem whenActive_cases {s t : State} {r : Result} (h : whenActive s r = .next t) :
    (s.block.act = true ∧ r = .next t) ∨ (s.block.act = false ∧ t = s) := by
  cases ha : s.block.act
  · exact .inr ⟨rfl, by simpa [whenActive, hold, ha] using h.symm⟩
  · exact .inl ⟨rfl, by simpa [whenActive, ha] using h⟩

/-- PUSH appends, or holds (R77). -/
theorem execPush_cases {v : Word} {s t : State} (h : execPush v s = .next t) :
    (s.block.inq.length < s.par.inqDepth ∧ t = respond (s.setInq (s.block.inq ++ [v])) .nothing) ∨
      (s.par.inqDepth ≤ s.block.inq.length ∧ t = s) := by
  unfold execPush at h
  split at h
  · obtain ⟨hlt, rfl⟩ := qPush_eq_some.1 ‹_›
    exact .inl ⟨hlt, by simpa using h.symm⟩
  · exact .inr ⟨qPush_eq_none.1 ‹_›, by simpa [hold] using h.symm⟩

/-- POP answers the head and removes it (R81). -/
theorem execPop_cases {s t : State} (h : execPop s = .next t) :
    ∃ w q, s.block.outq = w :: q ∧ t = respond (s.setOutq q) (.word w) := by
  unfold execPop at h
  split at h
  · exact ⟨_, _, qPop_eq_some.1 ‹_›, by simpa using h.symm⟩
  · simp at h

/-- u.FETCH is not enabled, holds, or takes a legal count (R90, R91). -/
theorem execUFetch_cases {s t : State} (h : execUFetch s = .next t) :
    t = s ∨ ∃ n q, s.block.act = true ∧ s.block.inq = n :: q ∧ countLegal n = true ∧
      t = ((((s.setInq q).setCnt n).setSr 0).setRdy s.par.readyBudget).setPhase Phase.waitrdy := by
  obtain ⟨ha, h⟩ | ⟨_, rfl⟩ := whenActive_cases h
  · split at h
    · exact .inl (by simpa [hold] using h.symm)
    · split at h
      · exact .inr ⟨_, _, ha, qPop_eq_some.1 ‹_›, ‹_›, by simpa using h.symm⟩
      · simp at h
  · exact .inl rfl

/-- u.WAITRDY is not enabled, finds the line low, gives up, or counts a high sample (R90, R92). -/
theorem execUWaitrdy_cases {s t : State} (h : execUWaitrdy s = .next t) :
    t = s ∨ (s.block.act = true ∧ s.env.data = false ∧ t = waitReady s) ∨
      (s.block.act = true ∧ s.env.data = true ∧
        ((s.block.rdy = .finite 0 ∧ t = (s.setSr s.par.sentinel).setPhase Phase.emit) ∨
          ∃ n, s.block.rdy = .finite (n + 1) ∧ t = s.setRdy (.finite n))) := by
  obtain ⟨ha, h⟩ | ⟨_, rfl⟩ := whenActive_cases h
  · cases hd : s.env.data
    · exact .inr (.inl ⟨ha, rfl, by simpa [sampleReady, hd] using h.symm⟩)
    · have ht : t = waitMore s := by simpa [sampleReady, hd] using h.symm
      unfold waitMore at ht
      split at ht
      · exact .inr (.inr ⟨ha, rfl, .inl ⟨‹_›, ht⟩⟩)
      · exact .inr (.inr ⟨ha, rfl, .inr ⟨_, ‹_›, ht⟩⟩)
      · exact .inl ht
  · exact .inl rfl

/-- u.EMIT is not enabled, holds, or emits (R90, R95). -/
theorem execUEmit_cases {s t : State} (h : execUEmit s = .next t) :
    t = s ∨ (s.block.act = true ∧ s.block.outq.length < s.par.outqDepth ∧
      t = (s.setOutq (s.block.outq ++ [s.block.sr])).setPhase Phase.start) := by
  obtain ⟨ha, h⟩ | ⟨_, rfl⟩ := whenActive_cases h
  · split at h
    · exact .inl (by simpa [hold] using h.symm)
    · obtain ⟨hlt, rfl⟩ := qPush_eq_some.1 ‹_›
      exact .inr ⟨ha, hlt, by simpa using h.symm⟩
  · exact .inl rfl

/-! ### The host between its commands -/

/-- Nothing the host does between its commands touches the block, the chip, the parameters, the environment or the host's
copy of the mode. -/
theorem hostAdvance_frame {s t : State} (h : hostAdvance s = .next t) :
    t.block = s.block ∧ t.chip = s.chip ∧ t.par = s.par ∧ t.env = s.env ∧ t.tick = s.tick ∧
      t.host.modeCopy = s.host.modeCopy ∧ t.host.foreign = s.host.foreign := by
  unfold hostAdvance at h
  split at h
  · split at h
    · simp [hold] at h; subst h; simp
    · simp at h; subst h; simp
  · split at h
    · simp at h; subst h; simp [endLine]
    · unfold hostSeqStep at h
      split at h
      · unfold issueCommand at h
        split at h <;> simp at h
        subst h; simp
      · simp at h; subst h; unfold takeResponse; split <;> simp
      · simp at h; subst h; simp
      · simp at h; subst h; unfold afterPoll; split
        · simp
        · split <;> simp
      all_goals simp at h; subst h; simp

/-! ### One step (R48) -/

/-- What one step can do: the command at the port, the micro-step of the position, the host's own work, or a turn of a second
context that has nothing to issue; then `settle`. -/
theorem step_cases {s t : State} (h : step s = .next t) :
    ∃ t', t = settle s t' ∧
      ((∃ w i, s.env.turn = .host ∧ s.host.port = some w ∧ decodeCommand w = .ok i ∧ exec i s = .next t') ∨
       (∃ u, s.env.turn = .sequencer ∧ decodePhase s.block.phase = .ok u ∧ exec u s = .next t') ∨
       (s.env.turn = .host ∧ s.host.port = none ∧ hostAdvance s = .next t') ∨
       (s.env.turn = .foreign ∧ s.host.foreign = [] ∧ t' = s)) := by
  unfold step at h
  split at h
  · simp at h
  · split at h
    · unfold hostTurn at h
      split at h
      · obtain ⟨t', h', rfl⟩ := settled_eq_next.1 h
        exact ⟨t', rfl, .inr (.inr (.inl ⟨‹_›, ‹_›, h'⟩))⟩
      · split at h
        · obtain ⟨t', h', rfl⟩ := settled_eq_next.1 h
          exact ⟨t', rfl, .inl ⟨_, _, ‹_›, ‹_›, ‹_›, h'⟩⟩
        · simp at h
    · obtain ⟨t', h', rfl⟩ := settled_eq_next.1 h
      exact ⟨t', rfl, .inr (.inl ⟨_, ‹_›, ‹_›, h'⟩)⟩
    · obtain ⟨t', h', rfl⟩ := settled_eq_next.1 h
      unfold foreignTurn at h'
      split at h'
      · exact ⟨t', rfl, .inr (.inr (.inr ⟨‹_›, ‹_›, by simpa [hold] using h'.symm⟩))⟩
      · simp at h'

/-! ### Responses, free samples, and the turns of others (R66, R68, R18, R97) -/

/-- A response that carries a value has it as the value taken (R68). -/
theorem responseValue_of_value {s : State} {r : Response} {w : Word} (h : s.host.resp = some r) (hv : r.value = some w) :
    responseValue s = w := by simp [responseValue, h, hv]

/-- A chip whose samples are free presents the environment's level (R18, R27, R28). -/
theorem samplePulse_of_samplesFree {s : State} (h : samplesFree s.chip) : samplePulse s = s.env.data := by
  obtain h | h | h := h
  · exact samplePulse_of_not_conforms h
  · simp [samplePulse, Chip.answer, h]
  · simp [samplePulse, Chip.answer, h]

theorem turnsOf_append (a : Agent) (es fs : List Env) : turnsOf a (es ++ fs) = turnsOf a es ++ turnsOf a fs :=
  List.filter_append ..

theorem turnsOf_cons_self {a : Agent} {e : Env} (h : e.turn = a) (es : List Env) : turnsOf a (e :: es) = e :: turnsOf a es := by
  simp [turnsOf, h]

theorem turnsOf_cons_other {a : Agent} {e : Env} (h : e.turn ≠ a) (es : List Env) : turnsOf a (e :: es) = turnsOf a es := by
  simp [turnsOf, h]

theorem turnsOnceHostTook_host {e : Env} (h : e.turn = .host) (n : Nat) (es : List Env) :
    turnsOnceHostTook n (e :: es) = turnsOnceHostTook (n - 1) es := by simp [turnsOnceHostTook, h]

theorem turnsOnceHostTook_foreign {e : Env} (h : e.turn = .foreign) (n : Nat) (es : List Env) :
    turnsOnceHostTook n (e :: es) = turnsOnceHostTook n es := by simp [turnsOnceHostTook, h]

theorem turnsOnceHostTook_early {e : Env} (h : e.turn = .sequencer) (n : Nat) (es : List Env) :
    turnsOnceHostTook (n + 1) (e :: es) = turnsOnceHostTook (n + 1) es := by simp [turnsOnceHostTook, h]

theorem turnsOnceHostTook_sequencer {e : Env} (h : e.turn = .sequencer) (es : List Env) :
    turnsOnceHostTook 0 (e :: es) = e :: turnsOnceHostTook 0 es := by simp [turnsOnceHostTook, h]

/-- A quiet turn of another agent answers a next state with the block, the parameters and all of the chip but its sleep as they
were; the chip falls asleep in it only if the environment says so and the clock is high (R28, R80, R97). -/
theorem quietTurn_cases {s : State} (h : quietTurn s) (ht : s.env.turn ≠ .sequencer) :
    ∃ t, step s = .next t ∧ t.block = s.block ∧ t.par = s.par ∧
      (t.chip = s.chip ∨
        (s.block.clk = true ∧ s.env.sleeps = true ∧ t.chip = { s.chip with asleep := some true })) := by
  obtain ⟨hs, hq⟩ := h
  cases hst : step s with
  | fault f => exact nomatch f
  | refused r => simp [hst, safeOutcome] at hs
  | next t =>
    obtain ⟨t', rfl, h'⟩ := step_cases hst
    have hf : t'.block = s.block ∧ t'.par = s.par ∧ t'.chip = s.chip := by
      obtain ⟨w, i, hh, hp, hd, he⟩ | ⟨_, hh, _⟩ | ⟨_, _, ha⟩ | ⟨_, _, rfl⟩ := h'
      · obtain rfl : .poll = i := by simpa [hq hh w hp] using hd
        obtain rfl := Host.Outcome.next.inj he
        exact ⟨rfl, rfl, rfl⟩
      · exact absurd hh ht
      · obtain ⟨hb, hc, hp, _⟩ := hostAdvance_frame ha
        exact ⟨hb, hp, hc⟩
      · exact ⟨rfl, rfl, rfl⟩
    obtain ⟨hb, hp, hc⟩ := hf
    refine ⟨_, rfl, by simp [hb], by simp [hp], ?_⟩
    rw [settle, sleepBetween, hb]
    split
    · simp_all [redraw]
    · exact .inl (by simp [redraw, hc])

end Sys2Proof.Machine
end

