-- ==== Sys2Proof/Laws/PerInstr.lean ====
section
/-! SUPPORT. Statements about every instruction, one lemma per constructor. -/

namespace Sys2Proof.Laws.TableRow

/-- The row of spec/opcode_table.json an instruction stands in, by its fields: a command's `op` and whether the row fixes
`arg` at 0, or a micro-step's `PHASE` (R61, R64). -/
inductive Row where
  | command (op : BitVec 4) (operand : Bool)
  | phase (p : PhaseCode)
  deriving DecidableEq, Repr

/-- Each instruction's row. -/
def row : Instr → Row
  | .restart => .command 0x1 false
  | .push _ => .command 0x2 true
  | .activate => .command 0x3 false
  | .deactivate => .command 0x4 false
  | .poll => .command 0x5 false
  | .pop => .command 0x6 false
  | .setmode _ => .command 0x7 true
  | .decode _ => .command 0x8 true
  | .park => .command 0x9 false
  | .unpark => .command 0xA false
  | .uFetch => .phase 0
  | .uWaitrdy => .phase 1
  | .uHi => .phase 2
  | .uLo => .phase 3
  | .uEmit => .phase 4
  | .uParked => .phase 5

/-- A code lies in a row: the row's fixed bits have the row's values. -/
def InRow : Row → Code → Prop
  | .command op operand, .command w => opOf w = op ∧ (operand = false → argOf w = 0)
  | .phase p, .phase q => q = p
  | .command _ _, .phase _ => False
  | .phase _, .command _ => False

/-- The encoding of the instruction lies in its row of the opcode table. -/
def Statement (i : Instr) : Prop := InRow (row i) (encode i)

theorem command_inRow (op : BitVec 4) (operand : Bool) (a : Word) (h : operand = false → a = 0) :
    InRow (.command op operand) (.command (cmdWord op a)) :=
  ⟨opOf_cmdWord op a, fun ho => by rw [argOf_cmdWord, h ho]⟩

theorem restart : Statement .restart := command_inRow _ _ _ fun _ => rfl
theorem push (v : Word) : Statement (.push v) := command_inRow _ _ _ (by simp)
theorem activate : Statement .activate := command_inRow _ _ _ fun _ => rfl
theorem deactivate : Statement .deactivate := command_inRow _ _ _ fun _ => rfl
theorem poll : Statement .poll := command_inRow _ _ _ fun _ => rfl
theorem pop : Statement .pop := command_inRow _ _ _ fun _ => rfl
theorem setmode (v : Word) : Statement (.setmode v) := command_inRow _ _ _ (by simp)
theorem decode (w : Word) : Statement (.decode w) := command_inRow _ _ _ (by simp)
theorem park : Statement .park := command_inRow _ _ _ fun _ => rfl
theorem unpark : Statement .unpark := command_inRow _ _ _ fun _ => rfl
theorem uFetch : Statement .uFetch := rfl
theorem uWaitrdy : Statement .uWaitrdy := rfl
theorem uHi : Statement .uHi := rfl
theorem uLo : Statement .uLo := rfl
theorem uEmit : Statement .uEmit := rfl
theorem uParked : Statement .uParked := rfl

end Sys2Proof.Laws.TableRow
end

