-- ==== Sys2Proof/Tests/Slice0.lean ====
section
/-! SUPPORT. Tests of the model on words and vectors written out from spec/95_test_vectors.md and from the rules cited, and a
witness for the hypotheses of every statement in Certificates/Slice0/Obligations.lean that has any. -/

namespace Sys2Proof.Tests

open Sys2Proof Sys2Proof.Machine

/-! ### Helpers -/

/-- Depths 2 and 1, the illustrative sentinel of the vectors, a ready budget of 2 and a poll budget of 2. -/
def par : Params := ⟨2, 1, 0xFFFFFFFF, .finite 2, 2⟩

/-- An environment whose turn is this agent's and whose data line has this level. -/
def envOf (turn : Agent) (data : Bool) : Env := ⟨turn, data, true, 0x0007D0, 0x77⟩

/-- A chip that keeps its contract, awake, with the value -100 to deliver and `n` pulses seen. -/
def goodChip (n : Nat) : Chip := ⟨some .one, some .one, some 0xFFFF9C, some n, some false, true⟩

/-- A state in the form of the vectors V4 and V6: `(ACT, PHASE, CLK, CNT, SR, RDY, INQ, OUTQ)`, in mode 1, the line high. -/
def st (act : Bool) (phase : PhaseCode) (clk : Bool) (cnt sr : Word) (rdy : Nat) (inq outq : List Word) : State where
  block := ⟨.one, act, phase, cnt, sr, .finite rdy, clk, inq, outq⟩
  chip  := Chip.unknown false
  host  := HostState.start []
  par   := par
  env   := envOf .host true
  tick  := 0

/-- The block of a next state is the one given. -/
def leaves (r : Result) (t : State) : Bool :=
  match r with
  | .next u => u.block == t.block
  | .fault _ => false
  | .refused _ => false

/-- The response of a next state is the one given. -/
def answersWith (r : Result) (x : Response) : Bool :=
  match r with
  | .next u => u.host.resp == some x && u.host.port == none
  | .fault _ => false
  | .refused _ => false

/-- The outcome is this refusal. -/
def refusedWith (r : Result) (x : Refusal) : Bool :=
  match r with
  | .next _ => false
  | .fault _ => false
  | .refused y => x == y

/-- An environment in which the sequencer moves, sees the level, and the chip is not put to sleep. -/
def seqEnv (d : Option Bool) : Env := { envOf .sequencer (d.getD true) with sleeps := false }

/-- Environments in which the sequencer alone moves and sees the levels. -/
def seqEnvs (ds : List (Option Bool)) : List Env := ds.map seqEnv

theorem seqEnvs_sees (ds : List (Option Bool)) : sequencerSees ds (seqEnvs ds) := by
  induction ds with
  | nil => trivial
  | cons d ds ih => exact ⟨rfl, fun b h => by simp [seqEnv, envOf, h], ih⟩

/-- So many turns of the host. -/
def hostEnvs (n : Nat) : List Env := List.replicate n { envOf .host true with sleeps := false }

theorem hostEnvs_hostOnly (n : Nat) : hostOnly (hostEnvs n) := fun e h => by rw [List.eq_of_mem_replicate h]; rfl

theorem hostEnvs_length (n : Nat) : (hostEnvs n).length = n := List.length_replicate

theorem turnsOf_seqEnvs (ds : List (Option Bool)) : turnsOf .sequencer (seqEnvs ds) = seqEnvs ds := by
  induction ds with
  | nil => rfl
  | cons d ds ih => exact congrArg (seqEnv d :: ·) ih

/-- A schedule of the sequencer alone has no turn of others. -/
theorem othersQuiet_seqEnvs (ds : List (Option Bool)) (s : State) : othersQuiet (seqEnvs ds) s := by
  induction ds generalizing s with
  | nil => trivial
  | cons d ds ih => exact ⟨fun h => absurd rfl h, fun t _ => ih t⟩

/-- A quiet turn of the host first, then the sequencer alone. -/
theorem othersQuiet_first (ds : List (Option Bool)) {s : State} (h : ∀ e ∈ hostEnvs 1, quietTurn { s with env := e }) :
    othersQuiet (hostEnvs 1 ++ seqEnvs ds) s :=
  ⟨fun _ => h _ (List.mem_singleton.2 rfl), fun t _ => othersQuiet_seqEnvs ds t⟩

/-! ### Decoding: words written out bit by bit from R60, R61 and R64 -/

/-- RESTART: `op = 0001`, `arg = 0`. -/
theorem test_decode_restart : decodeCommand 0b000100000000000000000000000000000000 = .ok .restart := by decide
/-- PUSH 25: `op = 0010`, `arg = 11001` (V2). -/
theorem test_decode_push : decodeCommand 0b001000000000000000000000000000011001 = .ok (.push 25) := by decide
/-- ACTIVATE: `op = 0011`. -/
theorem test_decode_activate : decodeCommand 0b001100000000000000000000000000000000 = .ok .activate := by decide
/-- DEACTIVATE: `op = 0100`. -/
theorem test_decode_deactivate : decodeCommand 0b010000000000000000000000000000000000 = .ok .deactivate := by decide
/-- POLL: `op = 0101`. -/
theorem test_decode_poll : decodeCommand 0b010100000000000000000000000000000000 = .ok .poll := by decide
/-- POP: `op = 0110`. -/
theorem test_decode_pop : decodeCommand 0b011000000000000000000000000000000000 = .ok .pop := by decide
/-- SETMODE 128: `op = 0111` (V1). -/
theorem test_decode_setmode : decodeCommand 0b011100000000000000000000000010000000 = .ok (.setmode 128) := by decide
/-- DECODE with bits 31 and 0 set: `op = 1000`. -/
theorem test_decode_decode : decodeCommand 0b100010000000000000000000000000000001 = .ok (.decode 0x80000001) := by decide
/-- PARK: `op = 1001`. -/
theorem test_decode_park : decodeCommand 0b100100000000000000000000000000000000 = .ok .park := by decide
/-- UNPARK: `op = 1010`. -/
theorem test_decode_unpark : decodeCommand 0b101000000000000000000000000000000000 = .ok .unpark := by decide
/-- The six positions of R64. -/
theorem test_decode_phases : decodePhase 0b000 = .ok .uFetch ∧ decodePhase 0b001 = .ok .uWaitrdy ∧
    decodePhase 0b010 = .ok .uHi ∧ decodePhase 0b011 = .ok .uLo ∧ decodePhase 0b100 = .ok .uEmit ∧
    decodePhase 0b101 = .ok .uParked := by decide
/-- V5: the reserved words, each by its name, at both ends of the ranges of R63. -/
theorem test_decode_reserved : decodeCommand 0x000000000 = .error .badOpcode ∧ decodeCommand 0xB00000000 = .error .badOpcode ∧
    decodeCommand 0xF00000000 = .error .badOpcode ∧ decodeCommand 0x100000001 = .error .nonzeroArg ∧
    decodeCommand 0x500000019 = .error .nonzeroArg ∧ decodeCommand 0xAFFFFFFFF = .error .nonzeroArg ∧
    decodePhase 6 = .error .badPhase ∧ decodePhase 7 = .error .badPhase := by decide
/-- The words of V4 that the encoder must give. -/
theorem test_encode : encode (.push 0xFFFFFFFF) = .command 0x2FFFFFFFF ∧ encode .unpark = .command 0xA00000000 ∧
    encode (.decode 0x1000000) = .command 0x801000000 ∧ encode .uLo = .phase 3 := by decide

/-! ### Well-formedness: an ill-formed term for each check -/

/-- R6: `INQ_DEPTH ≥ 1`. -/
theorem test_ill_formed_inq : Params.wellFormed ⟨0, 1, 0xFFFFFFFF, .finite 2, 2⟩ = false := by decide
/-- R6: `OUTQ_DEPTH ≥ 1`. -/
theorem test_ill_formed_outq : Params.wellFormed ⟨1, 0, 0xFFFFFFFF, .finite 2, 2⟩ = false := by decide
/-- R57: `2^27 ≤ SENTINEL`. -/
theorem test_ill_formed_sentinel : Params.wellFormed ⟨1, 1, 0x7FFFFFF, .finite 2, 2⟩ = false := by decide
/-- R6: `POLL_BUDGET ≥ 1`. -/
theorem test_ill_formed_polls : Params.wellFormed ⟨1, 1, 0x8000000, .finite 2, 0⟩ = false := by decide
/-- R6: parameters at the ends of their ranges. -/
theorem test_well_formed_params : Params.wellFormed ⟨1, 1, 0x8000000, .unbounded, 1⟩ = true := by decide
/-- R66: a name used before any line binds it. -/
theorem test_ill_formed_name : programWellFormed [] [⟨none, .cmd (.decode (.name 0)), false⟩] = false := by decide
/-- R66: a name bound to a command that answers nothing. -/
theorem test_ill_formed_binding : programWellFormed [] [⟨some 0, .cmd .activate, false⟩] = false := by decide
/-- R66: `w <- POP`, `s <- DECODE w`. -/
theorem test_well_formed_program :
    programWellFormed [] [⟨some 0, .cmd .pop, false⟩, ⟨some 1, .cmd (.decode (.name 0)), false⟩] = true := by decide

/-! ### Host commands (V1, V3, V4) -/

/-- V4 row 1. -/
theorem test_restart_clears : leaves (exec .restart (st false 3 true 7 0x2ABCD 4 [] [])) (st false 0 false 0 0 0 [] []) = true := by
  decide
/-- V4 row 2: the queues and `ACT` are kept. -/
theorem test_restart_keeps_queues :
    leaves (exec .restart (st true 5 true 0 0 0 [25] [0x7])) (st true 0 false 0 0 0 [25] [0x7]) = true := by decide
/-- V4 row 5. -/
theorem test_push_appends : leaves (exec (.push 27) (st false 0 false 0 0 0 [0x19] [])) (st false 0 false 0 0 0 [0x19, 0x1B] []) = true := by
  decide
/-- V4 row 6: on a full queue the command stays at the port. -/
theorem test_push_holds :
    (match step { st false 0 false 0 0 0 [1, 2] [] with host := { HostState.start [] with port := some 0x200000019 } } with
      | .next t => t.host.port == some 0x200000019 && t.block.inq == [1, 2]
      | .fault _ => false
      | .refused _ => false) = true := by decide
/-- V4 row 8. -/
theorem test_activate : leaves (exec .activate (st false 2 false 9 1 1 [] [])) (st true 2 false 9 1 1 [] []) = true := by decide
/-- V4 row 10: the clock stays high. -/
theorem test_deactivate : leaves (exec .deactivate (st true 3 true 3 0x5 9 [] [])) (st false 3 true 3 0x5 9 [] []) = true := by decide
/-- V4 rows 11 and 12. -/
theorem test_poll : answersWith (exec .poll (st true 0 false 0 0 0 [] [])) (.flag false) = true ∧
    answersWith (exec .poll (st true 0 false 0 0 0 [] [0x2468AD])) (.flag true) = true := by decide
/-- V4 row 13. -/
theorem test_pop : leaves (exec .pop (st true 0 false 0 0 0 [] [0x2468AD, 0x7])) (st true 0 false 0 0 0 [] [0x7]) = true ∧
    answersWith (exec .pop (st true 0 false 0 0 0 [] [0x2468AD, 0x7])) (.word 0x2468AD) = true := by decide
/-- V4 row 14. -/
theorem test_pop_empty : refusedWith (exec .pop (st true 0 false 0 0 0 [] [])) .popEmpty = true := by decide
/-- V1: 0, 4 and a software -1 are coerced to 1; 3 stands. -/
theorem test_setmode : coerce 0 = .one ∧ coerce 1 = .one ∧ coerce 2 = .two ∧ coerce 3 = .three ∧ coerce 4 = .one ∧
    coerce 128 = .one ∧ coerce 0xFFFFFFFF = .one := by decide
/-- V3 rows 4, 5, 10, 11, 13, 19. -/
theorem test_decode_sample : sampleWord (decodeSample 0x0FFFFFE .one) = 0x007FFFFF ∧
    sampleWord (decodeSample 0x1000000 .one) = 0xFF800000 ∧ sampleWord (decodeSample 0x3FFFFFF .three) = 0x007FFFFF ∧
    sampleWord (decodeSample 0x3FFFFFF .one) = 0x00FFFFFF ∧ sampleWord (decodeSample 0x400000D .three) = 0xFF800001 ∧
    sampleWord (decodeSample 0x8000000 .three) = 0 := by decide
/-- V3 rows 20 and 21: the largest operand as the sentinel and not. -/
theorem test_decode_sentinel :
    answersWith (exec (.decode 0xFFFFFFFF) (st true 0 false 0 0 0 [] [])) (.failure .sensorNotResponding) = true ∧
    sampleWord (decodeSample 0xFFFFFFFF .one) = 0x7EFFFFFF := by decide
/-- V4 row 15: the train is cut short, the working registers stay. -/
theorem test_park : leaves (exec .park (st true 2 false 12 0x1FFF 3 [] [])) (st true 5 true 12 0x1FFF 3 [] []) = true := by decide
/-- V4 rows 16 and 17. -/
theorem test_unpark : leaves (exec .unpark (st true 5 true 12 0x1FFF 3 [] [])) (st true 0 false 0 0 0 [] []) = true ∧
    leaves (exec .unpark (st false 3 true 3 0x5 9 [] [])) (st false 0 false 0 0 0 [] []) = true := by decide

/-! ### Micro-steps (V6, with `READY_BUDGET = 2`) -/

/-- V6 row 2. -/
theorem test_fetch : leaves (exec .uFetch (st true 0 false 5 0x99 1 [25, 26] [])) (st true 1 false 25 0 2 [26] []) = true := by decide
/-- V6 row 4, on both sides of the legal counts. -/
theorem test_fetch_bad_count : refusedWith (exec .uFetch (st true 0 false 0 0 0 [24] [])) .badCount = true ∧
    refusedWith (exec .uFetch (st true 0 false 0 0 0 [28] [])) .badCount = true := by decide
/-- V6 rows 6 and 9: a low sample wins even with the budget at 0. -/
theorem test_waitrdy_low : leaves (exec .uWaitrdy { st true 1 false 25 0 0 [] [] with env := envOf .sequencer false })
    (st true 2 false 25 0 0 [] []) = true := by decide
/-- V6 rows 7 and 8. -/
theorem test_waitrdy_high : leaves (exec .uWaitrdy (st true 1 false 25 0 2 [] [])) (st true 1 false 25 0 1 [] []) = true ∧
    leaves (exec .uWaitrdy (st true 1 false 25 0 0 [] [])) (st true 4 false 25 0xFFFFFFFF 0 [] []) = true := by decide
/-- V6 row 11. -/
theorem test_hi : leaves (exec .uHi (st true 2 false 25 0 2 [] [])) (st true 3 true 25 0 2 [] []) = true := by decide
/-- V6 row 12. -/
theorem test_lo : leaves (exec .uLo (st true 3 true 3 0b101 2 [] [])) (st true 2 false 2 0b1011 2 [] []) = true := by decide
/-- V6 row 14: the last pulse. -/
theorem test_lo_last : leaves (exec .uLo (st true 3 true 1 0x7FFFFF 2 [] [])) (st true 4 false 0 0xFFFFFF 2 [] []) = true := by decide
/-- V6 row 15. -/
theorem test_emit : leaves (exec .uEmit (st true 4 false 0 0x2468AD 8 [] [])) (st true 0 false 0 0x2468AD 8 [] [0x2468AD]) = true := by
  decide
/-- V6 row 16. -/
theorem test_emit_holds : leaves (exec .uEmit (st true 4 false 0 0x5 0 [] [0x9])) (st true 4 false 0 0x5 0 [] [0x9]) = true := by decide
/-- V6 row 18. -/
theorem test_parked : leaves (exec .uParked (st true 5 true 25 1 2 [25] [])) (st true 5 true 25 1 2 [25] []) = true := by decide
/-- V6 row 5: no step while deactivated. -/
theorem test_inactive : leaves (exec .uHi (st false 2 false 25 0 2 [] [])) (st false 2 false 25 0 2 [] []) = true := by decide
/-- R26: pulse 1 carries bit 23 of the value, pulse 24 bit 0; -100 is `0xFFFF9C`, so they are 1 and 0. -/
theorem test_chip_bits : (goodChip 0).answer = some true ∧ (goodChip 23).answer = some false ∧ (goodChip 24).answer = none := by decide
/-- R27: 26 pulses select mode 2; the clock of a sleeping chip falls and it forgets (R28). -/
theorem test_chip_mode : ((goodChip 25).pulse true 7).mode = some .two ∧
    ({ goodChip 3 with asleep := some true } : Chip).clockFell.value = none := by decide

/-! ### The first step after reset -/

/-- Whatever the open constants are, `withFetchWord` makes ACTIVATE the next step from reset, and it sets `ACT`. -/
theorem test_reset_runs_activate :
    (match step (State.reset.withFetchWord 40 0x300000000) with
      | .next t => t.block.act
      | .fault _ => false
      | .refused _ => false) = true := by rfl
/-- And u.HI, which raises the clock. -/
theorem test_reset_runs_hi :
    (match step (State.reset.withFetchWord 8 2) with
      | .next t => t.block.clk
      | .fault _ => false
      | .refused _ => false) = true := by rfl

/-! ### Witnesses: states and operands that meet the hypotheses of each statement -/

/-- A state with this command at the port and the host to move. -/
def atPort (w : CmdWord) (s : State) : State := { s with host := { s.host with port := some w }, env := envOf .host true }

/-- DecodeInvertsEncode holds of a code that is an encoding and of one that is not. -/
theorem witness_DecodeInvertsEncode :
    encode (.push 25) = .command 0x200000019 ∧ encode .uEmit = .phase 4 ∧ ∀ v, encode (.push v) ≠ .phase 6 := by
  refine ⟨by decide, by decide, fun v h => by simp [encode] at h⟩

theorem witness_ReservedEncodingsRefused :
    decodeCommand 0x0FFFFFFFF = .error .badOpcode ∧ decodeCommand 0xB00000000 = .error .badOpcode ∧
    decodeCommand 0x100000001 = .error .nonzeroArg ∧ decodeCommand 0xA00000001 = .error .nonzeroArg ∧
    decodePhase 6 = .error .badPhase ∧ decodePhase 7 = .error .badPhase := by decide

theorem witness_StepRunsDecodedInstruction_command :
    let s := atPort 0x200000019 (st true 0 false 0 0 0 [] [])
    decodePhase s.block.phase = .ok .uFetch ∧ s.env.turn = .host ∧ s.host.port = some 0x200000019 ∧
      decodeCommand 0x200000019 = .ok (.push 25) := by decide

theorem witness_StepRunsDecodedInstruction_microStep :
    let s := { st true 3 true 1 0 0 [] [] with env := envOf .sequencer true }
    decodePhase s.block.phase = .ok .uLo ∧ s.env.turn = .sequencer := by decide

/-- The chip falls asleep in a step that finds and leaves the clock high: the last clause's premise is met. -/
theorem witness_StepRunsDecodedInstruction_sleep :
    (settle (st true 5 true 0 0 0 [] []) (st true 5 true 0 0 0 [] [])).chip.asleep ≠ (st true 5 true 0 0 0 [] []).chip.asleep := by
  decide

theorem witness_StepRefusesReservedWords_phase :
    (st true 6 false 0 0 0 [] []).block.phase = 6 ∧ (st true 7 false 0 0 0 [] []).block.phase = 7 := by decide

theorem witness_StepRefusesReservedWords_command :
    let s := atPort 0x500000019 (st true 5 true 0 0 0 [] [])
    s.block.phase.toNat < 6 ∧ s.env.turn = .host ∧ s.host.port = some 0x500000019 ∧
      decodeCommand 0x500000019 = .error .nonzeroArg := by decide

theorem witness_SecondContextRefused :
    let s := { st true 0 false 0 0 0 [] [] with
      env := envOf .foreign true, host := { HostState.start [] with foreign := [0x100000000] } }
    s.block.phase.toNat < 6 ∧ s.env.turn = .foreign ∧ s.host.foreign ≠ [] := by decide

theorem witness_RestartGoesToStart :
    (st true 1 false 25 0 2 [] []).block.phase ∈ [Phase.hi, Phase.lo, Phase.waitrdy, Phase.emit] ∧
    (st true 4 false 0 5 2 [] []).block.phase ∈ [Phase.hi, Phase.lo, Phase.waitrdy, Phase.emit] ∧
    (st true 0 false 0 0 0 [] []).block.phase = Phase.start ∧ (st true 0 false 0 0 0 [] []).block.clk = false := by decide

theorem witness_UnparkActsAsRestart : (st true 5 true 12 0 0 [] []).block.clk = true := by decide

/-- The two clauses of PUSH meet at `INQ_DEPTH - 1` and `INQ_DEPTH` words. -/
theorem witness_PushAppendsOrHolds :
    (st true 0 false 0 0 0 [25] []).block.inq.length < par.inqDepth ∧
    (st true 0 false 0 0 0 [25, 26] []).block.inq.length = par.inqDepth := by decide

theorem witness_PopReturnsHead :
    (st true 0 false 0 0 0 [] [7]).block.outq = 7 :: [] ∧ (st true 0 false 0 0 0 [] []).block.outq = [] := by decide

theorem witness_ParkRaisesClock :
    (st true 2 false 12 0 0 [] []).block.phase ∈ [Phase.hi, Phase.lo, Phase.waitrdy, Phase.emit] ∧
    (st true 0 false 0 0 0 [] []).block.phase ∈ [Phase.start, Phase.parked] ∧
    (st true 5 true 0 0 0 [] []).block.phase ∈ [Phase.start, Phase.parked] := by decide

theorem witness_DecodeAnswersSampleOrFailure :
    (0xFFFFFFFF : Word) = (st true 0 false 0 0 0 [] []).par.sentinel ∧
    (0xFFFFFFFE : Word) ≠ (st true 0 false 0 0 0 [] []).par.sentinel := by decide

theorem witness_DeactivatedTakesNoStep :
    (st false 3 true 1 0 0 [] []).block.act = false ∧ decodePhase 3 = .ok .uLo ∧ decodePhase 0 = .ok .uFetch := by decide

theorem witness_FetchTakesCount :
    (st true 0 false 0 0 0 [] []).block.act = true ∧ (st true 0 false 0 0 0 [] []).block.inq = [] ∧
    (st true 0 false 0 0 0 [25] []).block.inq = 25 :: [] ∧ (25 : Word) ∈ [25, 26, 27] ∧ (27 : Word) ∈ [25, 26, 27] ∧
    (24 : Word) ∉ [25, 26, 27] ∧ (28 : Word) ∉ [25, 26, 27] := by decide

theorem witness_WaitReadyWatchesLevel :
    let low : State := { st true 1 false 25 0 0 [] [] with env := envOf .sequencer false }
    let spent := st true 1 false 25 0 0 [] []
    let one := st true 1 false 25 0 1 [] []
    let endless : State := { one with block := { one.block with rdy := .unbounded } }
    (low.block.act = true ∧ low.env.data = false) ∧
    (spent.block.act = true ∧ spent.env.data = true ∧ spent.block.rdy = .finite 0) ∧
    (one.block.act = true ∧ one.env.data = true ∧ one.block.rdy = .finite (0 + 1)) ∧
    (endless.block.act = true ∧ endless.env.data = true ∧ endless.block.rdy = .unbounded) := by decide

theorem witness_HiRaisesClock : (st true 2 false 25 0 2 [] []).block.act = true := by decide

/-- Both sides of `CNT = 1`, and the free value where `CNT = 0`. -/
theorem witness_LoSamplesAndLowersClock :
    (st true 3 true 1 0 2 [] []).block.act = true ∧ (st true 3 true 1 0 2 [] []).block.cnt = 1 ∧
    (st true 3 true 2 0 2 [] []).block.cnt ≠ 0 ∧ (st true 3 true 0 0 2 [] []).block.cnt = 0 := by decide

theorem witness_EmitAppendsOrHolds :
    (st true 4 false 0 5 0 [] []).block.act = true ∧ (st true 4 false 0 5 0 [] []).block.outq.length < par.outqDepth ∧
    (st true 4 false 0 5 0 [] [9]).block.outq.length = par.outqDepth := by decide

/-- Pulses 1, 24 and 25; a conforming chip asleep, with no value, with no place; and a chip without the premise. -/
theorem witness_PulseSamples :
    (let s := fun n => { st true 3 true 1 0 2 [] [] with chip := goodChip n }
     ((s 0).chip.conforms = true ∧ (s 0).chip.asleep = some false ∧ (s 0).chip.value = some 0xFFFF9C ∧
       (s 0).chip.bit = some (1 - 1)) ∧ (s 23).chip.bit = some (24 - 1) ∧ (s 24).chip.bit = some (25 - 1)) ∧
    (let c := goodChip 3
     c.conforms = true ∧ { c with asleep := some true }.asleep ≠ some false ∧ { c with value := none }.value = none ∧
       { c with bit := none }.bit = none) ∧
    (st true 3 true 1 0 2 [] []).chip.conforms = false := by decide

/-- A step of each kind: a command the chip does not see; RESTART, PARK and DEACTIVATE in a train and out of it; a low and a high
sample of the ready wait, and one while deactivated. -/
theorem witness_ChipFollowsThePins_commands :
    (∃ t, exec .poll (st true 0 false 0 0 0 [] []) = .next t) ∧
    (∃ t, exec .restart (st true 3 true 3 0 0 [] []) = .next t) ∧ (∃ t, exec .restart (st true 1 false 25 0 0 [] []) = .next t) ∧
    (∃ t, exec .unpark (st true 0 false 0 0 0 [] []) = .next t) ∧
    (∃ t, exec .park (st true 4 false 0 0 0 [] []) = .next t) ∧ (∃ t, exec .park (st true 5 true 0 0 0 [] []) = .next t) ∧
    (∃ t, exec .deactivate (st true 3 true 3 0 0 [] []) = .next t) ∧
    (∃ t, exec .deactivate (st true 4 false 3 0 0 [] []) = .next t) ∧
    (∃ t, exec .uWaitrdy { st true 1 false 25 0 0 [] [] with env := envOf .sequencer false } = .next t) ∧
    (∃ t, exec .uWaitrdy (st true 1 false 25 0 0 [] []) = .next t) ∧
    (∃ t, exec .uLo (st false 3 true 2 0 0 [] []) = .next t) :=
  ⟨⟨_, rfl⟩, ⟨_, rfl⟩, ⟨_, rfl⟩, ⟨_, rfl⟩, ⟨_, rfl⟩, ⟨_, rfl⟩, ⟨_, rfl⟩, ⟨_, rfl⟩, ⟨_, rfl⟩, ⟨_, rfl⟩, ⟨_, rfl⟩⟩

/-- Pulses, each from a state in which u.LO answers a next state: of a sleeping chip; of the chip after reset, whose sleep is
unknown; the last pulse with 24 seen, the 24 + 1st of its train; and the last pulse with 23 seen, or an unknown number. -/
theorem witness_ChipFollowsThePins_pulses :
    (∀ c : Chip, ∀ n : Word, ∃ t, exec .uLo { st true 3 true n 0 0 [] [] with chip := c } = .next t) ∧
    (Chip.unknown true).asleep ≠ some true ∧ (Chip.unknown true).bit = none ∧
    { goodChip 3 with asleep := some true }.asleep = some true ∧
    (goodChip 24).asleep ≠ some true ∧ (goodChip 24).bit = some (23 + Mode.one.toNat) ∧
    ∀ m : Mode, (goodChip 23).bit ≠ some (23 + m.toNat) :=
  ⟨fun _ _ => ⟨_, rfl⟩, by decide, by decide, by decide, by decide, by decide, fun m => by cases m <;> decide⟩

/-- A parked chip that falls asleep, and one asleep whose clock falls. -/
theorem witness_SleepFollowsClock :
    (∃ t, step (st true 5 true 0 0 0 [] []) = .next t ∧ t.chip.asleep = some true) ∧
    (let s : State := { atPort 0xA00000000 (st true 5 true 0 0 0 [] []) with chip := { goodChip 0 with asleep := some true } }
     s.block.clk = true ∧ s.chip.asleep = some true ∧ ∃ t, step s = .next t ∧ t.block.clk = false) :=
  ⟨⟨_, rfl, by decide⟩, by decide, by decide, ⟨_, rfl, by decide⟩⟩

/-- Each position with an activated sequencer whose micro-step answers a next state. -/
theorem witness_PhaseSuccessors_microStep :
    (∃ t, exec .uFetch (st true 0 false 0 0 0 [25] []) = .next t) ∧
    (∃ t, exec .uWaitrdy (st true 1 false 25 0 0 [] []) = .next t) ∧
    (∃ t, exec .uHi (st true 2 false 25 0 0 [] []) = .next t) ∧
    (∃ t, exec .uLo (st true 3 true 1 0 0 [] []) = .next t) ∧
    (∃ t, exec .uEmit (st true 4 false 0 5 0 [] [9]) = .next t) ∧
    (∃ t, exec .uParked (st true 5 true 0 0 0 [] []) = .next t) ∧
    decodePhase 0 = .ok .uFetch ∧ decodePhase 5 = .ok .uParked :=
  ⟨⟨_, rfl⟩, ⟨_, rfl⟩, ⟨_, rfl⟩, ⟨_, rfl⟩, ⟨_, rfl⟩, ⟨_, rfl⟩, by decide, by decide⟩

theorem witness_PhaseSuccessors_command :
    decodeCommand 0x900000000 = .ok .park ∧ (∃ t, exec .park (st true 2 false 12 0 0 [] []) = .next t) ∧
    decodeCommand 0xA00000000 = .ok .unpark ∧ (∃ t, exec .unpark (st true 5 true 12 0 0 [] []) = .next t) ∧
    decodeCommand 0x300000000 = .ok .activate ∧ (∃ t, exec .activate (st true 5 true 12 0 0 [] []) = .next t) :=
  ⟨by decide, ⟨_, rfl⟩, by decide, ⟨_, rfl⟩, by decide, ⟨_, rfl⟩⟩

/-- The instruction is executed and writes an element. -/
theorem witness_WritersOfEachElement :
    ∃ t, exec (.setmode 2) (st true 0 false 0 0 0 [] []) = .next t ∧ t.block.mode ≠ (st true 0 false 0 0 0 [] []).block.mode :=
  ⟨_, rfl, by decide⟩

theorem witness_ClockEdgesOnlyWhereNamed :
    (∃ t, exec .uHi (st true 2 false 25 0 0 [] []) = .next t ∧ t.block.clk = true) ∧
    (∃ t, exec .uLo (st true 3 true 25 0 0 [] []) = .next t ∧ t.block.clk = false) :=
  ⟨⟨_, rfl, by decide⟩, ⟨_, rfl, by decide⟩⟩

/-- Pushes that just fill `INQ`, and the third word of `OUTQ`. -/
theorem witness_QueuesKeepOrder :
    (st true 5 true 0 0 0 [] []).block.inq.length + [(25 : Word), 26].length ≤ par.inqDepth ∧
    (st true 5 true 0 0 0 [] [1, 2, 3]).block.outq = [1, 2] ++ 3 :: [] := by decide

theorem witness_HungHostStaysHung :
    hostHung (atPort 0x200000019 (st false 0 false 0 0 0 [25, 26] [])) = true ∧
    ∃ t, step (atPort 0x200000019 (st false 0 false 0 0 0 [25, 26] [])) = .next t :=
  ⟨by decide, ⟨_, rfl⟩⟩

theorem witness_DisabledMicroStepWaits :
    microEnabled (st true 4 false 0 5 0 [] [9]) = false ∧ decodePhase 4 = .ok .uEmit ∧
    atRest (st true 0 false 0 0 0 [] []) = true ∧ atRest (st false 3 true 1 0 0 [] []) = true ∧
    atRest (st true 5 true 0 0 0 [25] []) = true := by decide

/-- Each of the refused steps is refused, and one that is none of them is not. -/
theorem witness_RefusedExactlyWhereNamed :
    safeOutcome (step (st true 6 false 0 0 0 [] [])) = false ∧
    safeOutcome (step (atPort 0x000000000 (st true 0 false 0 0 0 [] []))) = false ∧
    safeOutcome (step (atPort 0x600000000 (st true 0 false 0 0 0 [] []))) = false ∧
    safeOutcome (step { st true 0 false 0 0 0 [24] [] with env := envOf .sequencer true }) = false ∧
    safeOutcome (step { st true 0 false 0 0 0 [] [] with
      host := { HostState.start [] with
        line := some ⟨none, .cmd (.push (.name 0)), false⟩, seq := [.issue (.push (.name 0))] } }) = false ∧
    safeOutcome (step (atPort 0x600000000 (st true 0 false 0 0 0 [] [7]))) = true := by decide

theorem witness_FinalStatesStayFinal :
    final (st true 0 false 0 0 0 [] [7]) = true ∧ ∃ t, step (st true 0 false 0 0 0 [] [7]) = .next t :=
  ⟨by decide, ⟨_, rfl⟩⟩

/-- A DECODE line that has just been answered with the failure. -/
theorem witness_FailureEndsSequence :
    let l : Line := ⟨none, .cmd (.decode (.lit 0xFFFFFFFF)), true⟩
    let s : State := { st true 0 false 0 0 0 [] [] with
      host := { HostState.start [] with
        line := some l, seq := [.take], resp := some (.failure .sensorNotResponding) } }
    s.host.port = none ∧ s.host.line = some l ∧ s.host.seq = .take :: [] ∧
      s.host.resp = some (.failure .sensorNotResponding) := by decide

/-- The ends of the sample range and of the mode bits. -/
theorem witness_SampleRoundTrip :
    (-(2 ^ 23) ≤ (-8388608 : Int) ∧ (-8388608 : Int) ≤ 2 ^ 23 - 1 ∧ 0 < 2 ^ Mode.one.toNat) ∧
    (-(2 ^ 23) ≤ (8388607 : Int) ∧ (8388607 : Int) ≤ 2 ^ 23 - 1 ∧ 7 < 2 ^ Mode.three.toNat) := by decide

/-- Both sides of `2^23 - 1`, and the largest payload. -/
theorem witness_DecodeOfRawWord :
    8388607 < 2 ^ 24 ∧ 8388608 < 2 ^ 24 ∧ 16777215 < 2 ^ 24 ∧ 3 < 2 ^ Mode.two.toNat ∧
    ¬ 2 ^ 23 - 1 < 8388607 ∧ 2 ^ 23 - 1 < 8388608 := by decide

/-- A state in the middle of a train meets the invariants, and its step answers a next state. -/
def midTrain : State := { st true 3 true 25 3 2 [26] [7] with env := envOf .sequencer true }

theorem midTrain_steps : ∃ t, step midTrain = .next t := ⟨_, rfl⟩

theorem witness_ClockFollowsPhaseAlways : ClockFollowsPhase midTrain ∧ ∃ t, step midTrain = .next t :=
  ⟨rfl, midTrain_steps⟩

theorem witness_QueuesWithinDepthAlways : QueuesWithinDepth midTrain ∧ ∃ t, step midTrain = .next t :=
  ⟨by constructor <;> decide, midTrain_steps⟩

theorem witness_EmittedWordsKnownAlways : EmittedWordsKnown midTrain ∧ ∃ t, step midTrain = .next t := by
  refine ⟨⟨⟨by decide, by decide, fun h => absurd h (by decide)⟩, fun w h => .inl ?_⟩, midTrain_steps⟩
  have : w = 7 := by simpa [midTrain, st] using h
  subst this; decide

theorem witness_BudgetNotExceededAlways : BudgetNotExceeded midTrain ∧ ∃ t, step midTrain = .next t :=
  ⟨rfl, midTrain_steps⟩

theorem witness_HostCopyNeverDrifts :
    (CopyAgrees midTrain ∧ ∃ t, step midTrain = .next t) ∧ ∃ t, exec (.setmode 3) midTrain = .next t :=
  ⟨⟨rfl, midTrain_steps⟩, ⟨_, rfl⟩⟩

/-- With the chip's place known: one pulse seen, 25 left. -/
theorem witness_ChipPlaceLegalAlways :
    let s : State := { midTrain with chip := goodChip 1 }
    ChipPlaceLegal s ∧ ∃ t, step s = .next t := by
  refine ⟨⟨by decide, by decide, fun k h => ?_⟩, ⟨_, rfl⟩⟩
  have : k = 1 := by simpa [goodChip] using h.symm
  subst this; decide

/-- An activated sequencer in `START` with count 25 at the head of `INQ`. -/
def atStart : State := st true 0 false 0 0 0 [25] []

/-- The same with a POLL at the port: the host's turn that begins the schedules below executes it. -/
def polling : State := atPort 0x500000000 atStart

/-- One POLL, then the sequencer alone, which sees the levels. -/
def pollThen (ds : List (Option Bool)) : List Env := hostEnvs 1 ++ seqEnvs ds

theorem pollThen_sees (ds : List (Option Bool)) : sequencerSees ds (turnsOf .sequencer (pollThen ds)) := by
  show sequencerSees ds (turnsOf .sequencer (seqEnvs ds))
  rw [turnsOf_seqEnvs]
  exact seqEnvs_sees ds

theorem polling_quiet {s : State} (hp : s.host.port = some 0x500000000) (hb : s.block.phase = Phase.start ∨ s.block.phase = Phase.waitrdy)
    (ds : List (Option Bool)) : othersQuiet (pollThen ds) s := by
  refine othersQuiet_first ds fun e he => ?_
  obtain rfl := List.mem_singleton.1 he
  have hpoll : decodeCommand 0x500000000 = .ok .poll := by decide
  refine ⟨?_, fun _ w hw => ?_⟩
  · obtain hb | hb := hb <;> simp only [step, hostTurn, hb, hp] <;> rfl
  · obtain rfl : 0x500000000 = w := by simpa [hp] using hw
    exact hpoll

theorem witness_AcquisitionEmitsRawWord :
    polling.block.act = true ∧ polling.block.phase = Phase.start ∧ polling.block.clk = false ∧
    polling.block.inq = count .one :: [] ∧ polling.block.outq.length < polling.par.outqDepth ∧
    samplesFree polling.chip ∧ (Budget.finite 2).atMost polling.par.readyBudget = true ∧
    (List.replicate 25 true).length = 24 + Mode.one.toNat ∧
    sequencerSees (acquisitionLevels 2 (List.replicate 25 true))
      (turnsOf .sequencer (pollThen (acquisitionLevels 2 (List.replicate 25 true)))) ∧
    othersQuiet (pollThen (acquisitionLevels 2 (List.replicate 25 true))) polling :=
  ⟨by decide, by decide, by decide, by decide, by decide, .inl rfl, by decide, by decide, pollThen_sees _,
    polling_quiet rfl (.inl rfl) _⟩

/-- The three kinds of chip whose samples are free. -/
theorem witness_samplesFree :
    samplesFree (Chip.unknown false) ∧ samplesFree (Chip.unknown true) ∧ samplesFree { goodChip 0 with asleep := some true } :=
  ⟨.inl rfl, .inr (.inl rfl), .inr (.inr rfl)⟩

theorem witness_SilentChipGivesSentinel :
    polling.block.act = true ∧ polling.block.phase = Phase.start ∧ polling.block.clk = false ∧
    polling.block.inq = count .one :: [] ∧ polling.block.outq.length < polling.par.outqDepth ∧
    polling.par.readyBudget = .finite 2 ∧ sequencerSees (sentinelLevels 2) (turnsOf .sequencer (pollThen (sentinelLevels 2))) ∧
    othersQuiet (pollThen (sentinelLevels 2)) polling :=
  ⟨by decide, by decide, by decide, by decide, by decide, by decide, pollThen_sees _, polling_quiet rfl (.inl rfl) _⟩

theorem witness_UnboundedWaitEmitsNothing :
    (let s : State := { polling with block := { polling.block with phase := Phase.waitrdy, rdy := .unbounded } }
     s.block.act = true ∧ s.block.phase = Phase.waitrdy ∧ s.block.rdy = .unbounded ∧
      sequencerSees (List.replicate 3 (some true)) (turnsOf .sequencer (pollThen (List.replicate 3 (some true)))) ∧
      othersQuiet (pollThen (List.replicate 3 (some true))) s) ∧
    (let s : State := { polling with par := { par with readyBudget := .unbounded } }
     s.block.act = true ∧ s.block.phase = Phase.start ∧ s.block.inq = count .one :: [] ∧ s.par.readyBudget = .unbounded ∧
      sequencerSees (none :: List.replicate 3 (some true)) (turnsOf .sequencer (pollThen (none :: List.replicate 3 (some true)))) ∧
      othersQuiet (pollThen (none :: List.replicate 3 (some true))) s) :=
  ⟨⟨rfl, rfl, rfl, pollThen_sees _, polling_quiet rfl (.inr rfl) _⟩,
    ⟨rfl, rfl, rfl, rfl, pollThen_sees _, polling_quiet rfl (.inl rfl) _⟩⟩

theorem witness_ConformingChipDeliversValue :
    let s : State := { polling with chip := goodChip 0 }
    let ds := freePulseLevels 1 (24 + Mode.one.toNat)
    s.block.act = true ∧ s.block.phase = Phase.start ∧ s.block.clk = false ∧ s.block.inq = count .one :: [] ∧
    s.block.outq.length < s.par.outqDepth ∧ s.chip.conforms = true ∧ s.chip.asleep = some false ∧
    s.chip.value = some 0xFFFF9C ∧ (Budget.finite 1).atMost s.par.readyBudget = true ∧
    sequencerSees ds (turnsOf .sequencer (pollThen ds)) ∧ othersQuiet (pollThen ds) s ∧ ∀ e ∈ pollThen ds, e.sleeps = false :=
  ⟨by decide, by decide, by decide, by decide, by decide, by decide, by decide, by decide, by decide, pollThen_sees _,
    polling_quiet rfl (.inl rfl) _, by decide⟩

/-- A host about to begin a line, the block wherever a failure may have left it: in `LO`, the clock high. -/
def about (op : HostOp) : State :=
  { st false 3 true 7 0x2A 1 [] [] with host := HostState.start [⟨some 0, op, false⟩] }

/-- The premises on the state that the statements about READ and TEMPERATURE share. -/
theorem about_premises (op : HostOp) :
    (about op).block.phase.toNat < 6 ∧ (about op).host.port = none ∧ (about op).host.line = none ∧
    (about op).host.prog = ⟨some 0, op, false⟩ :: [] ∧ CopyAgrees (about op) ∧ (about op).par.wellFormed = true ∧
    (about op).block.inq = [] ∧ (about op).block.outq = [] ∧ (about op).chip.conforms = false :=
  ⟨of_decide_eq_true rfl, rfl, rfl, rfl, rfl, rfl, rfl, rfl, rfl⟩

/-- So many turns of the host, then the sequencer sees the levels. -/
def hostsThen (n : Nat) (ds : List (Option Bool)) : List Env := hostEnvs n ++ seqEnvs ds

theorem turnsOnceHostTook_seqEnvs (ds : List (Option Bool)) : turnsOnceHostTook 0 (seqEnvs ds) = seqEnvs ds := by
  induction ds with
  | nil => rfl
  | cons d ds ih => exact congrArg (seqEnv d :: ·) ih

theorem turnsOnceHostTook_hostEnvs {k n : Nat} (h : k ≤ n) (es : List Env) :
    turnsOnceHostTook k (hostEnvs n ++ es) = turnsOnceHostTook 0 es := by
  induction n generalizing k with
  | zero => rw [Nat.le_zero.1 h]; rfl
  | succ n ih => exact ih (Nat.sub_le_of_le_add h)

/-- All the levels are seen by a sequencer that may move once the host has taken `k` turns. -/
theorem hostsThen_sees {k n : Nat} {ds : List (Option Bool)} (hk : k ≤ n) (hd : ds.dropLast ++ [none] = ds) :
    sequencerSees ds (turnsOnceHostTook k (hostsThen n ds.dropLast ++ [seqEnv none])) := by
  have h : hostsThen n ds.dropLast ++ [seqEnv none] = hostEnvs n ++ seqEnvs (ds.dropLast ++ [none]) := by
    simp [hostsThen, seqEnvs]
  rw [h, hd, turnsOnceHostTook_hostEnvs hk, turnsOnceHostTook_seqEnvs]
  exact seqEnvs_sees ds

theorem hostsThen_hosts (n : Nat) (ds : List (Option Bool)) : (turnsOf .host (hostsThen n ds)).length = n := by
  have h : turnsOf .host (seqEnvs ds) = [] := by simp [turnsOf, seqEnvs, seqEnv, envOf]
  have h' : turnsOf .host (hostEnvs n) = hostEnvs n := by simp [turnsOf, hostEnvs, envOf]
  rw [turnsOf] at h h' ⊢
  rw [hostsThen, List.filter_append, h, h', List.append_nil, hostEnvs_length]

theorem witness_StarvedReadTimesOut :
    (about .read).block.phase.toNat < 6 ∧ (about .read).host.port = none ∧ (about .read).host.line = none ∧
    (about .read).host.prog = ⟨some 0, .read, false⟩ :: [] ∧ CopyAgrees (about .read) ∧ 1 ≤ (about .read).par.pollBudget ∧
    (about .read).block.inq.length < (about .read).par.inqDepth ∧ (about .read).block.outq = [] ∧
    hostOnly (hostEnvs 16) ∧ (hostEnvs 16).length = 10 + 3 * (about .read).par.pollBudget :=
  ⟨by decide, rfl, rfl, rfl, rfl, by decide, by decide, rfl, hostEnvs_hostOnly _, by decide⟩

theorem witness_StaleWordReturned :
    let s : State := { about .read with block := { (about .read).block with outq := [0xA] } }
    s.block.phase.toNat < 6 ∧ s.host.port = none ∧ s.host.line = none ∧ s.host.prog = ⟨some 0, .read, false⟩ :: [] ∧
    CopyAgrees s ∧ s.block.inq.length < s.par.inqDepth ∧ s.block.outq = 0xA :: [] ∧ (0xA : Word) ≠ s.par.sentinel ∧
    hostOnly (hostEnvs 17) ∧ (hostEnvs 17).length = 17 :=
  ⟨by decide, rfl, rfl, rfl, rfl, by decide, rfl, by decide, hostEnvs_hostOnly _, hostEnvs_length _⟩

/-- Each of the four operations as the next line, the mode a number, and a name bound earlier. -/
theorem witness_PowerAndModeLinesRun :
    (∀ op ∈ [HostOp.powerDown, .powerUp, .setMode (.lit 3), .construct (.lit 9)],
      (about op).block.phase.toNat < 6 ∧ (about op).host.port = none ∧ (about op).host.line = none ∧
        (about op).host.prog = ⟨some 0, op, false⟩ :: []) ∧
    operandValue (about .read).host (.lit 3) = some 3 ∧
    operandValue { HostState.start [⟨none, .setMode (.name 4), false⟩] with vars := [(4, 9)] } (.name 4) = some 9 ∧
    hostOnly (hostEnvs 5) ∧ (hostEnvs 5).length = 5 :=
  ⟨by decide, rfl, rfl, hostEnvs_hostOnly _, hostEnvs_length _⟩

/-- From a sequencer frozen in `LO`, so at rest; the word comes at the last moment, `j = 3 · POLL_BUDGET + 2`. -/
theorem witness_ReadReturnsSample :
    let ds := (acquisitionLevels 2 (List.replicate 25 true)).dropLast
    ((about .read).block.phase.toNat < 6 ∧ (about .read).host.port = none ∧ (about .read).host.line = none ∧
      (about .read).host.prog = ⟨some 0, .read, false⟩ :: [] ∧ (about .read).host.foreign = [] ∧
      CopyAgrees (about .read) ∧ (about .read).par.wellFormed = true ∧ (about .read).block.inq = [] ∧
      (about .read).block.outq = []) ∧
    (samplesFree (about .read).chip ∨ (about .read).block.clk = true ∨ Phase.acquiring (about .read).block.phase = true) ∧
    (Budget.finite 2).atMost (about .read).par.readyBudget = true ∧
    (List.replicate 25 true).length = 24 + (about .read).block.mode.toNat ∧
    (atRest (about .read) = true ∨ hostOnly (hostEnvs 3)) ∧ (turnsOf .host (hostEnvs 3)).length = 3 ∧
    sequencerSees (acquisitionLevels 2 (List.replicate 25 true))
      (turnsOnceHostTook (if (about .read).block.act then 2 else 4) (hostsThen 8 ds ++ [seqEnv none])) ∧
    (seqEnv none).turn = .sequencer ∧ (turnsOf .host (hostsThen 8 ds)).length = 8 ∧
    8 ≤ 3 * (about .read).par.pollBudget + 2 ∧ (turnsOf .host (hostEnvs 9)).length = turnsToFlag 8 + 7 :=
  ⟨⟨by decide, rfl, rfl, rfl, rfl, rfl, by decide, rfl, rfl⟩, .inl (.inl rfl), by decide, by decide, .inl (by decide), by decide,
    hostsThen_sees (k := 4) (by decide) (by decide), rfl, hostsThen_hosts _ _, by decide, by decide⟩

/-- The other chips: one whose conversion is known, where READ's RESTART lowers the clock or cuts the train short; and a
sequencer that is not at rest. -/
theorem witness_ReadReturnsSample_cut :
    let s : State := { about .read with
      block := { (about .read).block with act := true, phase := Phase.waitrdy, clk := false }, chip := goodChip 7 }
    ¬ samplesFree s.chip ∧ Phase.acquiring s.block.phase = true ∧ (about .read).block.clk = true ∧
    atRest s = false ∧ hostOnly (hostEnvs 3) := by
  refine ⟨?_, by decide, by decide, by decide, hostEnvs_hostOnly _⟩
  rintro (h | h | h) <;> exact absurd h (by decide)

/-- A sequencer left active fetches, and even emits, between PUSH and ACTIVATE: `j = 2` (R171). -/
theorem witness_ReadReturnsConversion :
    let ds := (freePulseLevels 2 (24 + Mode.one.toNat)).dropLast
    let s : State := { st true 0 false 0 0x2A 1 [] [] with
      host := HostState.start [⟨some 0, .read, false⟩], chip := goodChip 0 }
    (s.block.phase = Phase.start ∧ s.block.clk = false ∧ s.host.port = none ∧ s.host.line = none ∧
      s.host.prog = ⟨some 0, .read, false⟩ :: [] ∧ s.host.foreign = [] ∧ CopyAgrees s ∧ s.par.wellFormed = true ∧
      s.block.inq = [] ∧ s.block.outq = [] ∧ s.chip.conforms = true ∧ s.chip.asleep = some false ∧
      s.chip.value = some 0xFFFF9C ∧ (Budget.finite 2).atMost s.par.readyBudget = true) ∧
    (turnsOf .host (hostEnvs 3)).length = 3 ∧
    sequencerSees (freePulseLevels 2 (24 + s.block.mode.toNat))
      (turnsOnceHostTook (if s.block.act then 2 else 4) (hostsThen 2 ds ++ [seqEnv none])) ∧
    (seqEnv none).turn = .sequencer ∧ (∀ x ∈ hostsThen 2 ds, x.sleeps = false) ∧
    (turnsOf .host (hostsThen 2 ds)).length = 2 ∧ 2 ≤ 3 * s.par.pollBudget + 2 ∧
    (turnsOf .host (hostEnvs 12)).length = turnsToFlag 2 + 7 :=
  ⟨⟨rfl, rfl, rfl, rfl, rfl, rfl, rfl, by decide, rfl, rfl, rfl, rfl, rfl, by decide⟩, by decide,
    hostsThen_sees (k := 2) (by decide) (by decide), rfl, by decide, hostsThen_hosts _ _, by decide, by decide⟩

theorem witness_ReadRaisesNotResponding :
    let ds := (sentinelLevels 2).dropLast
    ((about .read).block.phase.toNat < 6 ∧ (about .read).host.port = none ∧ (about .read).host.line = none ∧
      (about .read).host.prog = ⟨some 0, .read, false⟩ :: [] ∧ (about .read).host.foreign = [] ∧
      CopyAgrees (about .read) ∧ (about .read).par.wellFormed = true ∧ (about .read).block.inq = [] ∧
      (about .read).block.outq = []) ∧
    (about .read).par.readyBudget = .finite 2 ∧
    (atRest (about .read) = true ∨ hostOnly (hostEnvs 3)) ∧ (turnsOf .host (hostEnvs 3)).length = 3 ∧
    sequencerSees (sentinelLevels 2)
      (turnsOnceHostTook (if (about .read).block.act then 2 else 4) (hostsThen 6 ds ++ [seqEnv none])) ∧
    (seqEnv none).turn = .sequencer ∧ (turnsOf .host (hostsThen 6 ds)).length = 6 ∧
    6 ≤ 3 * (about .read).par.pollBudget + 2 ∧ (turnsOf .host (hostEnvs 10)).length = turnsToFlag 6 + 6 :=
  ⟨⟨by decide, rfl, rfl, rfl, rfl, rfl, by decide, rfl, rfl⟩, rfl, .inl (by decide), by decide,
    hostsThen_sees (k := 4) (by decide) (by decide), rfl, hostsThen_hosts _ _, by decide, by decide⟩

/-- A sequencer left active takes its count between PUSH and ACTIVATE and two high samples while the host polls. -/
theorem witness_UnreadyReadTimesOut :
    let s : State := { about .read with
      block := { (about .read).block with act := true, phase := Phase.start, clk := false }
      par := { par with readyBudget := .unbounded } }
    let es := hostEnvs 2 ++ seqEnvs [none] ++ hostEnvs 4 ++ seqEnvs [some true, some true] ++ hostEnvs 7
    (s.block.phase.toNat < 6 ∧ s.host.port = none ∧ s.host.line = none ∧ s.host.prog = ⟨some 0, .read, false⟩ :: [] ∧
      s.host.foreign = [] ∧ CopyAgrees s ∧ s.par.wellFormed = true ∧ s.block.inq = [] ∧ s.block.outq = [] ∧
      s.par.readyBudget = .unbounded) ∧ (atRest s = true ∨ hostOnly (hostEnvs 3)) ∧ (turnsOf .host (hostEnvs 3)).length = 3 ∧
    (∀ e ∈ es, e.turn = .sequencer → e.data = true) ∧ (turnsOf .host es).length = 4 + 3 * s.par.pollBudget + 3 :=
  ⟨⟨by decide, rfl, rfl, rfl, rfl, rfl, by decide, rfl, rfl, rfl⟩, .inl (by decide), by decide, by decide, by decide⟩

theorem witness_FailedTemperatureLeavesModeTwo :
    (about .temperature).block.phase.toNat < 6 ∧ (about .temperature).host.port = none ∧
    (about .temperature).host.line = none ∧ (about .temperature).host.prog = ⟨some 0, .temperature, false⟩ :: [] ∧
    1 ≤ (about .temperature).par.pollBudget ∧
    (about .temperature).block.inq.length < (about .temperature).par.inqDepth ∧ (about .temperature).block.outq = [] ∧
    hostOnly (hostEnvs 19) ∧ (hostEnvs 19).length = 13 + 3 * (about .temperature).par.pollBudget :=
  ⟨by decide, rfl, rfl, rfl, by decide, by decide, rfl, hostEnvs_hostOnly _, by decide⟩

theorem witness_TemperatureReturnsSecondSample :
    let s := about .temperature
    let b26 := List.replicate 26 true
    let b25 := List.replicate 25 false
    (s.block.phase.toNat < 6 ∧ s.host.port = none ∧ s.host.line = none ∧
      s.host.prog = ⟨some 0, .temperature, false⟩ :: [] ∧ CopyAgrees s ∧ s.par.wellFormed = true ∧ s.block.inq = [] ∧
      s.block.outq = [] ∧ s.chip.conforms = false) ∧
    (Budget.finite 0).atMost s.par.readyBudget = true ∧ (Budget.finite 2).atMost s.par.readyBudget = true ∧
    b26.length = 26 ∧ b25.length = 24 + s.block.mode.toNat ∧
    (hostOnly (hostEnvs 10) ∧ (hostEnvs 10).length = 10) ∧ (hostOnly (hostEnvs 15) ∧ (hostEnvs 15).length = 15) ∧
    (hostOnly (hostEnvs 18) ∧ (hostEnvs 18).length = 18) ∧ (hostOnly (hostEnvs 11) ∧ (hostEnvs 11).length = 11) ∧
    sequencerSees (acquisitionLevels 0 b26) (seqEnvs (acquisitionLevels 0 b26)) ∧
    sequencerSees (acquisitionLevels 2 b26) (seqEnvs (acquisitionLevels 2 b26)) ∧
    sequencerSees (acquisitionLevels 2 b25) (seqEnvs (acquisitionLevels 2 b25)) := by
  refine ⟨about_premises _, by decide, by decide, by decide, by decide, ⟨hostEnvs_hostOnly _, hostEnvs_length _⟩,
    ⟨hostEnvs_hostOnly _, hostEnvs_length _⟩, ⟨hostEnvs_hostOnly _, hostEnvs_length _⟩,
    ⟨hostEnvs_hostOnly _, hostEnvs_length _⟩, seqEnvs_sees _, seqEnvs_sees _, seqEnvs_sees _⟩

theorem witness_TemperatureReturnsModeTwoConversion :
    let s : State := { st true 0 false 0 0x2A 1 [] [] with
      host := HostState.start [⟨some 0, .temperature, false⟩], chip := goodChip 0 }
    let q := seqEnvs (freePulseLevels 0 26)
    (s.block.phase = Phase.start ∧ s.block.clk = false ∧ s.host.port = none ∧ s.host.line = none ∧
      s.host.prog = ⟨some 0, .temperature, false⟩ :: [] ∧ CopyAgrees s ∧ s.par.wellFormed = true ∧
      s.block.inq = [] ∧ s.block.outq = [] ∧ s.chip.conforms = true ∧ s.chip.asleep = some false ∧
      s.chip.value = some 0xFFFF9C ∧ (Budget.finite 0).atMost s.par.readyBudget = true) ∧
    (hostOnly (hostEnvs 10) ∧ (hostEnvs 10).length = 10) ∧ (hostOnly (hostEnvs 15) ∧ (hostEnvs 15).length = 15) ∧
    (hostOnly (hostEnvs 18) ∧ (hostEnvs 18).length = 18) ∧ (hostOnly (hostEnvs 11) ∧ (hostEnvs 11).length = 11) ∧
    sequencerSees (freePulseLevels 0 26) (q.dropLast.dropLast ++ [seqEnv none, seqEnv none]) ∧
    sequencerSees (freePulseLevels 0 26) q ∧
    sequencerSees (freePulseLevels 0 (24 + s.block.mode.toNat)) (seqEnvs (freePulseLevels 0 (24 + s.block.mode.toNat))) := by
  refine ⟨⟨rfl, rfl, rfl, rfl, rfl, rfl, by decide, rfl, rfl, rfl, rfl, rfl, by decide⟩,
    ⟨hostEnvs_hostOnly _, hostEnvs_length _⟩, ⟨hostEnvs_hostOnly _, hostEnvs_length _⟩,
    ⟨hostEnvs_hostOnly _, hostEnvs_length _⟩, ⟨hostEnvs_hostOnly _, hostEnvs_length _⟩, ?_, seqEnvs_sees _, seqEnvs_sees _⟩
  exact seqEnvs_sees (freePulseLevels 0 26)

/-! ### What a name binds -/

/-- R66, log 26: a POWER_DOWN line with a name binds the environment's free word, not the value of the line before it. -/
theorem test_no_response_binds_free :
    (match takeResponse [] { about .powerDown with
        host := { (about .powerDown).host with resp := some .nothing, result := 0x5 }
        env := envOf .host true } with
      | t => t.host.result) = 0x77 := by decide

end Sys2Proof.Tests
end

section
/-! What a completed instruction did, said once as a relation; and the shape of every invariant's proof over `step`. -/

namespace Sys2Proof.Machine

/-! ### The effect of an instruction that goes on -/

/-- The next states of each instruction, one constructor per outcome that is not a stop, with the guard under which it is the
outcome (spec/40_host_commands.md R76 to R83, spec/41_microprogram.md R90 to R96, spec/42_decode.md R106, R109). -/
inductive Effect (s : State) : Instr → State → Prop
  | restart : Effect s .restart (respond (toStart s) .nothing)
  | unpark : Effect s .unpark (respond (toStart s) .nothing)
  | push {v : Word} (room : s.block.inq.length < s.par.inqDepth) :
      Effect s (.push v) (respond (s.setInq (s.block.inq ++ [v])) .nothing)
  | pushHeld {v : Word} (full : s.par.inqDepth ≤ s.block.inq.length) : Effect s (.push v) s
  | activate : Effect s .activate (respond (s.setAct true) .nothing)
  | deactivate : Effect s .deactivate (respond ((s.setChip (s.chip.frozen s.block)).setAct false) .nothing)
  | poll : Effect s .poll (respond s (.flag (outNE s.block)))
  | pop {w : Word} {q : List Word} (head : s.block.outq = w :: q) : Effect s .pop (respond (s.setOutq q) (.word w))
  | setmode {v : Word} :
      Effect s (.setmode v) (respond ((s.setMode (coerce v)).setHost { s.host with modeCopy := coerce v }) .nothing)
  | decode {w : Word} : Effect s (.decode w) (respond s (decodeResponse s.par.sentinel w s.block.mode))
  | park :
      Effect s .park (respond (((s.setChip (s.chip.parked s.block)).setPhase Phase.parked).setClk true) .nothing)
  | inactive {u : Instr} (micro : u ∈ [.uFetch, .uWaitrdy, .uHi, .uLo, .uEmit]) (idle : s.block.act = false) : Effect s u s
  | fetchHeld (active : s.block.act = true) (empty : s.block.inq = []) : Effect s .uFetch s
  | fetch {n : Word} {q : List Word} (active : s.block.act = true) (head : s.block.inq = n :: q)
      (legal : countLegal n = true) :
      Effect s .uFetch (((((s.setInq q).setCnt n).setSr 0).setRdy s.par.readyBudget).setPhase Phase.waitrdy)
  | ready (active : s.block.act = true) (low : s.env.data = false) : Effect s .uWaitrdy (waitReady s)
  | giveUp (active : s.block.act = true) (high : s.env.data = true) (spent : s.block.rdy = .finite 0) :
      Effect s .uWaitrdy ((s.setSr s.par.sentinel).setPhase Phase.emit)
  | waitMore {n : Nat} (active : s.block.act = true) (high : s.env.data = true) (left : s.block.rdy = .finite (n + 1)) :
      Effect s .uWaitrdy (s.setRdy (.finite n))
  | waitOn (active : s.block.act = true) (high : s.env.data = true) (endless : s.block.rdy = .unbounded) :
      Effect s .uWaitrdy s
  | hi (active : s.block.act = true) : Effect s .uHi ((s.setClk true).setPhase Phase.lo)
  | lo (active : s.block.act = true) (more : s.block.cnt ≠ 1) :
      Effect s .uLo
        (((((s.setChip (s.chip.pulse false s.env.conv)).setSr (shiftIn s.block.sr (samplePulse s))).setClk false).setPhase
          Phase.hi).setCnt (decrement s.env.free s.block.cnt))
  | loLast (active : s.block.act = true) (last : s.block.cnt = 1) :
      Effect s .uLo
        (((((s.setChip (s.chip.pulse true s.env.conv)).setSr (shiftIn s.block.sr (samplePulse s))).setClk false).setPhase
          Phase.emit).setCnt (decrement s.env.free s.block.cnt))
  | emit (active : s.block.act = true) (room : s.block.outq.length < s.par.outqDepth) :
      Effect s .uEmit ((s.setOutq (s.block.outq ++ [s.block.sr])).setPhase Phase.start)
  | emitHeld (active : s.block.act = true) (full : s.par.outqDepth ≤ s.block.outq.length) : Effect s .uEmit s
  | parked : Effect s .uParked s

section
variable {i : Instr} {s t : State}

/-- Every effect is what the instruction answers. -/
theorem Effect.exec_eq (h : Effect s i t) : exec i s = .next t := by
  cases h with
  | push room => simp [exec, execPush, qPush_eq_some.2 ⟨room, rfl⟩]
  | pushHeld full => simp [exec, execPush, qPush_eq_none.2 full, hold]
  | pop head => simp [exec, execPop, qPop_eq_some.2 head]
  | inactive micro idle =>
    simp only [List.mem_cons, List.not_mem_nil, or_false] at micro
    obtain rfl | rfl | rfl | rfl | rfl := micro <;> exact if_neg (by simp [idle])
  | fetchHeld active empty => simp [exec, execUFetch, whenActive_of_active active, qPop_eq_none.2 empty, hold]
  | fetch active head legal => simp [exec, execUFetch, whenActive_of_active active, qPop_eq_some.2 head, legal]
  | ready active low => simp [exec, execUWaitrdy, whenActive_of_active active, sampleReady, low]
  | giveUp active high spent =>
    simp [exec, execUWaitrdy, whenActive_of_active active, sampleReady, high, Machine.waitMore, spent]
  | waitMore active high left =>
    simp [exec, execUWaitrdy, whenActive_of_active active, sampleReady, high, Machine.waitMore, left]
  | waitOn active high endless =>
    simp [exec, execUWaitrdy, whenActive_of_active active, sampleReady, high, Machine.waitMore, endless]
  | hi active => exact whenActive_of_active active _
  | lo active more => simp only [exec, execULo, whenActive_of_active active, more, decide_false, if_false, Bool.false_eq_true]
  | loLast active last => simp only [exec, execULo, whenActive_of_active active, last, decide_true, if_true]
  | emit active room => simp [exec, execUEmit, whenActive_of_active active, qPush_eq_some.2 ⟨room, rfl⟩]
  | emitHeld active full => simp [exec, execUEmit, whenActive_of_active active, qPush_eq_none.2 full, hold]
  | _ => rfl

/-- What an instruction does is settled by its effect: there is no other next state. -/
theorem Effect.eq_of_exec {t' : State} (h : Effect s i t) (h' : exec i s = .next t') : t' = t :=
  Host.Outcome.next.inj (h'.symm.trans h.exec_eq)

/-- The micro-steps that `ACT` gates: each holds, or is the meaning under an activated sequencer (R90). -/
theorem effect_of_whenActive {r : Result} (micro : i ∈ [.uFetch, .uWaitrdy, .uHi, .uLo, .uEmit])
    (h : whenActive s r = .next t) (hr : s.block.act = true → r = .next t → Effect s i t) : Effect s i t := by
  obtain ⟨active, hrt⟩ | ⟨idle, rfl⟩ := whenActive_cases h
  · exact hr active hrt
  · exact .inactive micro idle

/-- An instruction that goes on has one of the effects. -/
theorem effect_of_exec (h : exec i s = .next t) : Effect s i t := by
  cases i with
  | push v =>
    obtain ⟨room, rfl⟩ | ⟨full, rfl⟩ := execPush_cases h
    · exact .push room
    · exact .pushHeld full
  | pop =>
    obtain ⟨w, q, head, rfl⟩ := execPop_cases h
    exact .pop head
  | uFetch =>
    refine effect_of_whenActive (by simp) h fun active h => ?_
    cases hq : s.block.inq with
    | nil =>
      obtain rfl : s = t := by simpa [hq, qPop, hold] using h
      exact .fetchHeld active hq
    | cons n q =>
      cases legal : countLegal n with
      | false => simp [hq, qPop, legal] at h
      | true =>
        simp only [hq, qPop, legal, if_true, Host.Outcome.next.injEq] at h
        exact h ▸ .fetch active hq legal
  | uWaitrdy =>
    refine effect_of_whenActive (by simp) h fun active h => ?_
    obtain rfl := Host.Outcome.next.inj h
    cases hd : s.env.data with
    | false => simpa [sampleReady, hd] using Effect.ready active hd
    | true =>
      simp only [sampleReady, hd, if_true]
      unfold Machine.waitMore
      split
      · exact .giveUp active hd ‹_›
      · exact .waitMore active hd ‹_›
      · exact .waitOn active hd ‹_›
  | uHi => exact effect_of_whenActive (by simp) h fun active h => Host.Outcome.next.inj h ▸ .hi active
  | uLo =>
    refine effect_of_whenActive (by simp) h fun active h => ?_
    obtain rfl := Host.Outcome.next.inj h
    by_cases hc : s.block.cnt = 1
    · simpa only [hc, decide_true, if_true] using Effect.loLast active hc
    · simpa only [hc, decide_false, if_false, Bool.false_eq_true] using Effect.lo active hc
  | uEmit =>
    refine effect_of_whenActive (by simp) h fun active h => ?_
    cases hq : qPush s.par.outqDepth s.block.outq s.block.sr with
    | none =>
      obtain rfl : s = t := by simpa [hq, hold] using h
      exact .emitHeld active (qPush_eq_none.1 hq)
    | some q =>
      obtain ⟨room, rfl⟩ := qPush_eq_some.1 hq
      simp only [hq, Host.Outcome.next.injEq] at h
      exact h ▸ .emit active room
  | restart => exact Host.Outcome.next.inj h ▸ .restart
  | activate => exact Host.Outcome.next.inj h ▸ .activate
  | deactivate => exact Host.Outcome.next.inj h ▸ .deactivate
  | poll => exact Host.Outcome.next.inj h ▸ .poll
  | setmode v => exact Host.Outcome.next.inj h ▸ .setmode
  | decode w => exact Host.Outcome.next.inj h ▸ .decode
  | park => exact Host.Outcome.next.inj h ▸ .park
  | unpark => exact Host.Outcome.next.inj h ▸ .unpark
  | uParked => exact Host.Outcome.next.inj h ▸ .parked

end

/-! ### Invariants of the block, the parameters, the host's copy of the mode and the chip's place -/

/-- What a micro-step may assume of the position it is taken in: `PHASE` is its code (R64, R90). -/
def AtItsPosition (i : Instr) (s : State) : Prop := ∀ p, encode i = .phase p → s.block.phase = p

theorem atItsPosition_of_command {w : CmdWord} {i : Instr} (s : State) (h : decodeCommand w = .ok i) :
    AtItsPosition i s := by
  intro p hp
  have := decodeCommand_command h
  cases i <;> simp [encode] at hp this

theorem atItsPosition_of_phase {s : State} {u : Instr} (h : decodePhase s.block.phase = .ok u) : AtItsPosition u s := by
  intro p hp
  obtain ⟨hs, rfl⟩ | ⟨hs, rfl⟩ | ⟨hs, rfl⟩ | ⟨hs, rfl⟩ | ⟨hs, rfl⟩ | ⟨hs, rfl⟩ := decodePhase_cases h <;>
    exact hs.trans (Code.phase.inj hp)

/-- A predicate of the block, the parameters, the host's copy of the mode and the chip's place is kept by every step if
every instruction keeps it: the host between its commands, an idle turn and `settle` touch none of the four. -/
theorem step_keeps {P : State → Prop}
    (frame : ∀ {s t : State}, t.block = s.block → t.par = s.par → t.host.modeCopy = s.host.modeCopy →
      t.chip.bit = s.chip.bit → P s → P t)
    (keeps : ∀ {i : Instr} {s t : State}, AtItsPosition i s → Effect s i t → P s → P t)
    {s t : State} (hs : P s) (h : step s = .next t) : P t := by
  obtain ⟨t', rfl, h'⟩ := step_cases h
  suffices P t' from frame (by simp) (by simp) (by simp) (by simp) this
  obtain ⟨w, i, _, _, hd, he⟩ | ⟨u, _, hd, he⟩ | ⟨_, _, ha⟩ | ⟨_, _, rfl⟩ := h'
  · exact keeps (atItsPosition_of_command s hd) (effect_of_exec he) hs
  · exact keeps (atItsPosition_of_phase hd) (effect_of_exec he) hs
  · obtain ⟨hb, hc, hp, _, _, hm, _⟩ := hostAdvance_frame ha
    exact frame hb hp hm (by rw [hc]) hs
  · exact hs

end Sys2Proof.Machine
end

section
/-! The invariants of RDY, of the host's copy of the mode and of the chip's place (spec/10_state.md R11, R16, R24), and the
writers of each element (R10). -/

namespace Sys2Proof

theorem Budget.zero_atMost (b : Budget) : (Budget.finite 0).atMost b = true := by
  cases b <;> simp [Budget.atMost]

theorem Budget.atMost_self (b : Budget) : b.atMost b = true := by
  cases b <;> simp [Budget.atMost]

theorem Budget.atMost_of_succ {n : Nat} {b : Budget} (h : (Budget.finite (n + 1)).atMost b = true) :
    (Budget.finite n).atMost b = true := by
  cases b with
  | finite m =>
    simp only [Budget.atMost, decide_eq_true_eq] at h ⊢
    omega
  | unbounded => rfl

end Sys2Proof

namespace Sys2Proof.Machine

variable {i : Instr} {s t : State}

/-! ### RDY (R16) -/

/-- RDY is loaded with the budget, cleared, or counted down. -/
theorem Effect.keeps_budgetNotExceeded (h : Effect s i t) (hs : BudgetNotExceeded s) : BudgetNotExceeded t := by
  cases h with
  | restart | unpark => exact Budget.zero_atMost _
  | fetch => exact Budget.atMost_self _
  | waitMore _ _ left => exact Budget.atMost_of_succ (by simpa [BudgetNotExceeded, left] using hs)
  | _ => exact hs

/-- Settles O44: every effect keeps the bound, and nothing else of a step touches RDY. -/
theorem budgetNotExceededAlways : Obligations.BudgetNotExceededAlways := fun _ _ hs h =>
  step_keeps (fun hb hp _ _ hs => by simpa [BudgetNotExceeded, hb, hp] using hs)
    (fun _ he hs => he.keeps_budgetNotExceeded hs) hs h

/-! ### The host's copy of the mode (R11) -/

/-- SETMODE is the only writer of the mode and of its copy, and writes them together. -/
theorem Effect.keeps_copyAgrees (h : Effect s i t) (hs : CopyAgrees s) : CopyAgrees t := by
  cases h with
  | setmode => rfl
  | _ => exact hs

/-- Settles O45: SETMODE writes both, every other effect keeps both, and so does the host between its commands. -/
theorem hostCopyNeverDrifts : Obligations.HostCopyNeverDrifts := by
  constructor
  · intro s t hs h
    exact step_keeps (fun hb _ hm _ hs => by simpa [CopyAgrees, hb, hm] using hs)
      (fun _ he hs => he.keeps_copyAgrees hs) hs h
  · intro s t v h
    obtain rfl := Effect.setmode.eq_of_exec h
    rfl

/-! ### The chip's place in a train (R24) -/

theorem Phase.not_inTrain_of_not_acquiring {p : PhaseCode} (h : Phase.acquiring p = false) : Phase.inTrain p = false := by
  simp_all [Phase.acquiring, Phase.inTrain]

/-- Outside a train and the ready wait, a place that is known is a legal one. -/
theorem chipPlaceLegal_of_idle (hw : t.block.phase ≠ Phase.waitrdy) (ht : Phase.inTrain t.block.phase = false)
    (hk : ∀ k, t.chip.bit = some k → k ≤ 27) : ChipPlaceLegal t :=
  ⟨fun h => absurd h hw, by simp [ht], by simpa [ht] using hk⟩

/-- In a train, there is a pulse left, and a place that is known makes a legal count with those left. -/
theorem chipPlaceLegal_of_train (ht : Phase.inTrain t.block.phase = true) (hleft : 1 ≤ t.block.cnt.toNat)
    (hk : ∀ k, t.chip.bit = some k → 25 ≤ k + t.block.cnt.toNat ∧ k + t.block.cnt.toNat ≤ 27) : ChipPlaceLegal t :=
  ⟨fun h => by simp [h, Phase.inTrain] at ht, fun _ => hleft, by simpa [ht] using hk⟩

/-- A place found outside a train is at most 27. -/
theorem ChipPlaceLegal.bit_le (hs : ChipPlaceLegal s) (ht : Phase.inTrain s.block.phase = false) {k : Nat}
    (hk : s.chip.bit = some k) : k ≤ 27 := by
  obtain ⟨-, -, hplace⟩ := hs
  simpa [ht] using hplace k hk

/-- A place found in a train makes a legal count with the pulses left. -/
theorem ChipPlaceLegal.bit_add_cnt (hs : ChipPlaceLegal s) (ht : Phase.inTrain s.block.phase = true) {k : Nat}
    (hk : s.chip.bit = some k) : 25 ≤ k + s.block.cnt.toNat ∧ k + s.block.cnt.toNat ≤ 27 := by
  obtain ⟨-, -, hplace⟩ := hs
  simpa [ht] using hplace k hk

/-- In a train there is a pulse left. -/
theorem ChipPlaceLegal.one_le_cnt (hs : ChipPlaceLegal s) (ht : Phase.inTrain s.block.phase = true) :
    1 ≤ s.block.cnt.toNat := by
  obtain ⟨-, hleft, -⟩ := hs
  exact hleft ht

/-- RESTART, UNPARK, PARK and DEACTIVATE leave the place known only where no train was under way. -/
theorem ChipPlaceLegal.bit_le_of_kept (hs : ChipPlaceLegal s) {cut : Bool} {bit : Option Nat}
    (hcut : cut = false → Phase.inTrain s.block.phase = false) (hbit : bit = if cut then none else s.chip.bit)
    {k : Nat} (hk : bit = some k) : k ≤ 27 := by
  cases cut with
  | true => simp [hbit] at hk
  | false => exact hs.bit_le (hcut rfl) (by simpa [hbit] using hk)

theorem ChipPlaceLegal.toStart (hs : ChipPlaceLegal s) (r : Response) : ChipPlaceLegal (respond (toStart s) r) :=
  chipPlaceLegal_of_idle (by simp) (by simp [Phase.inTrain]) fun _ hk =>
    hs.bit_le_of_kept (fun h => Phase.not_inTrain_of_not_acquiring (by simp_all)) (Chip.released_bit _ _) hk

/-- Within a train a place known after a pulse is one further than before it. -/
theorem Chip.bit_of_pulse_more {c : Chip} {v : BitVec 24} {k : Nat} (h : (c.pulse false v).bit = some k) :
    ∃ j, c.bit = some j ∧ k = j + 1 := by
  obtain hnone | ⟨hlast, _⟩ | ⟨_, j, hj, hsome⟩ := c.pulse_bit false v
  · simp [hnone] at h
  · cases hlast
  · exact ⟨j, hj, Option.some.inj (h.symm.trans hsome)⟩

/-- A place known after the last pulse is the beginning of the next train. -/
theorem Chip.bit_of_pulse_last {c : Chip} {v : BitVec 24} {k : Nat} (h : (c.pulse true v).bit = some k) : k = 0 := by
  obtain hnone | ⟨_, hzero⟩ | ⟨hmore, _⟩ := c.pulse_bit true v
  · simp [hnone] at h
  · exact Option.some.inj (h.symm.trans hzero)
  · cases hmore

theorem countLegal_bounds {n : Word} (h : countLegal n = true) : 25 ≤ n.toNat ∧ n.toNat ≤ 27 := by
  obtain rfl | rfl | rfl := countLegal_iff.1 h <;> decide

/-- u.FETCH, u.WAITRDY and u.HI lead into the train with a legal count and the place 0; each pulse moves the place up and the
count down; whatever ends or cuts the train leaves a place of at most 27, or none. -/
theorem Effect.keeps_chipPlaceLegal (hpos : AtItsPosition i s) (h : Effect s i t) (hs : ChipPlaceLegal s) :
    ChipPlaceLegal t := by
  cases h with
  | restart | unpark => exact hs.toStart _
  | park =>
    exact chipPlaceLegal_of_idle (by simp) (by simp [Phase.inTrain]) fun _ hk =>
      hs.bit_le_of_kept Phase.not_inTrain_of_not_acquiring (Chip.parked_bit _ _) hk
  | deactivate =>
    obtain ⟨hw, ht, hk⟩ := hs
    refine ⟨hw, ht, fun k hk' => hk k ?_⟩
    cases hp : Phase.inTrain s.block.phase <;> simp_all [Chip.frozen_bit]
  | fetch _ _ legal =>
    have hp : s.block.phase = Phase.start := hpos 0 rfl
    exact ⟨fun _ => countLegal_bounds legal, by simp [Phase.inTrain], fun k hk => by
      simpa [Phase.inTrain] using hs.bit_le (by simp [hp, Phase.inTrain]) hk⟩
  | ready =>
    obtain ⟨hwait, -, -⟩ := hs
    obtain ⟨hlow, hhigh⟩ := hwait (hpos 1 rfl)
    refine chipPlaceLegal_of_train rfl (Nat.le_trans (by decide) hlow) fun k hk => ?_
    obtain rfl : 0 = k := Option.some.inj hk
    simpa [waitReady] using ⟨hlow, hhigh⟩
  | giveUp =>
    have hp : s.block.phase = Phase.waitrdy := hpos 1 rfl
    exact chipPlaceLegal_of_idle (by simp) (by simp [Phase.inTrain]) fun _ hk =>
      hs.bit_le (by simp [hp, Phase.inTrain]) hk
  | hi =>
    have ht : Phase.inTrain s.block.phase = true := by rw [show s.block.phase = Phase.hi from hpos 2 rfl]; rfl
    exact chipPlaceLegal_of_train rfl (hs.one_le_cnt ht) fun _ hk => hs.bit_add_cnt ht hk
  | lo _ more =>
    have ht : Phase.inTrain s.block.phase = true := by rw [show s.block.phase = Phase.lo from hpos 3 rfl]; rfl
    have hleft := hs.one_le_cnt ht
    have hne : s.block.cnt.toNat ≠ 1 := fun h1 => more (BitVec.eq_of_toNat_eq h1)
    have hdec : (decrement s.env.free s.block.cnt).toNat = s.block.cnt.toNat - 1 :=
      decrement_toNat fun h0 => by simp [h0] at hleft
    refine chipPlaceLegal_of_train rfl ?_ fun k hk => ?_
    · simp only [State.setCnt_cnt, hdec]
      omega
    · obtain ⟨j, hj, rfl⟩ := Chip.bit_of_pulse_more (v := s.env.conv) hk
      have hplace := hs.bit_add_cnt ht hj
      simp only [State.setCnt_cnt, hdec]
      omega
  | loLast =>
    refine chipPlaceLegal_of_idle (by simp) rfl fun k hk => ?_
    obtain rfl : k = 0 := Chip.bit_of_pulse_last (v := s.env.conv) hk
    exact Nat.zero_le _
  | emit =>
    have hp : s.block.phase = Phase.emit := hpos 4 rfl
    exact chipPlaceLegal_of_idle (by simp) (by simp [Phase.inTrain]) fun _ hk =>
      hs.bit_le (by simp [hp, Phase.inTrain]) hk
  | _ => exact hs

/-- Settles O46: every effect keeps the place legal, and the rest of a step moves neither the place nor the count. -/
theorem chipPlaceLegalAlways : Obligations.ChipPlaceLegalAlways := fun _ _ hs h =>
  step_keeps (fun hb _ _ hc hs => by simpa [ChipPlaceLegal, hb, hc] using hs)
    (fun hpos he hs => he.keeps_chipPlaceLegal hpos hs) hs h

/-! ### The writers of each element (R10) -/

@[simp] theorem waitReady_block (s : State) : (waitReady s).block = { s.block with phase := Phase.hi } := rfl
@[simp] theorem waitReady_chip (s : State) : (waitReady s).chip = s.chip.trainStart := rfl
@[simp] theorem waitReady_par (s : State) : (waitReady s).par = s.par := rfl

/-- Settles O31: each effect is written with the register writes, so which elements it leaves alone is read off it. -/
theorem writersOfEachElement : Obligations.WritersOfEachElement := by
  intro i s t h
  have he := effect_of_exec h
  cases he <;> simp

end Sys2Proof.Machine
end

section
/-! What the chip goes through on its pins and what it answers (spec/10_state.md R24 to R28), and the commands that give the
reset block (R30). -/

namespace Sys2Proof.Machine

/-! ### The chip's events, case by case -/

section
variable (c : Chip) (b : Block) (v : BitVec 24)

/-- A clock that RESTART or UNPARK lowers leaves the chip awake and unknown; a train they cut short leaves it unknown. -/
theorem Chip.released_eq : c.released b =
    if b.clk then { c.forget with asleep := some false }
    else if b.phase ∈ [Phase.waitrdy, Phase.hi, Phase.lo, Phase.emit] then c.forget else c := by
  cases hclk : b.clk <;> simp [Chip.released, Phase.acquiring, hclk]

theorem Chip.parked_eq : c.parked b =
    if b.phase ∈ [Phase.waitrdy, Phase.hi, Phase.lo, Phase.emit] then c.forget else c := by
  simp [Chip.parked, Phase.acquiring]

theorem Chip.frozen_eq : c.frozen b = if b.phase ∈ [Phase.hi, Phase.lo] then c.forget else c := by
  simp [Chip.frozen, Phase.inTrain]

variable {c}

theorem Chip.clockFell_of_asleep (h : c.asleep = some true) :
    c.clockFell = { c.forget with asleep := some false } := by
  simp [Chip.clockFell, h]

theorem Chip.clockFell_of_not_asleep (h : c.asleep ≠ some true) : c.clockFell = { c with asleep := some false } := by
  unfold Chip.clockFell
  split
  · exact absurd ‹_› h
  · rfl

/-- A train whose pulses the chip could not count, or whose number selects no mode, leaves it unknown (R27). -/
theorem Chip.trainEnd_of_none (h : c.bit.bind modeOfPulses = none) : c.trainEnd v = c.forget := by
  simp [Chip.trainEnd, h]

/-- The end of a train of `24 + m` pulses selects the mode `m` (R27). -/
theorem Chip.trainEnd_of_count {m : Mode} (h : c.bit = some (24 + m.toNat)) :
    c.trainEnd v = { c with mode := some m, next := some m, value := some v, bit := some 0 } := by
  simp [Chip.trainEnd, h, modeOfPulses_count]

/-- A pulse that wakes the chip leaves it unknown, whether or not it is the last of its train (R28). -/
theorem Chip.pulse_of_asleep (last : Bool) (h : c.asleep = some true) :
    c.pulse last v = { c.forget with asleep := some false } := by
  cases last
  · simp [Chip.pulse, Chip.clockFell_of_asleep h, Chip.forget]
  · simp [Chip.pulse, Chip.clockFell_of_asleep h, Chip.trainEnd_of_none, Chip.forget]

/-- The chip once it has seen a pulse it was not asleep for: one place further, and awake. -/
def Chip.counted (c : Chip) : Chip := { c with bit := c.bit.map (· + 1), asleep := some false }

/-- A pulse within a train moves the chip's place on. -/
theorem Chip.pulse_of_more (h : c.asleep ≠ some true) : c.pulse false v = c.counted := by
  simp [Chip.pulse, Chip.clockFell_of_not_asleep h, Chip.counted]

/-- The last pulse of a train moves the chip's place on and ends the train there. -/
theorem Chip.pulse_of_last (h : c.asleep ≠ some true) : c.pulse true v = c.counted.trainEnd v := by
  simp [Chip.pulse, Chip.clockFell_of_not_asleep h, Chip.counted]

/-- The last pulse of a train of `24 + m` selects the mode `m`. -/
theorem Chip.pulse_of_count {m : Mode} (h : c.asleep ≠ some true) (hb : c.bit = some (23 + m.toNat)) :
    c.pulse true v =
      { c with mode := some m, next := some m, value := some v, bit := some 0, asleep := some false } := by
  have hcount : c.counted.bit = some (24 + m.toNat) := by simp [Chip.counted, hb]; omega
  rw [Chip.pulse_of_last v h, Chip.trainEnd_of_count v hcount]
  rfl

/-- A number of pulses that is not `24 + m` for a mode `m` selects none (R27). -/
theorem modeOfPulses_eq_none {n : Nat} (h : ∀ m : Mode, n ≠ 24 + m.toNat) : modeOfPulses n = none := by
  have h₁ := h .one
  have h₂ := h .two
  have h₃ := h .three
  simp only [Mode.toNat] at h₁ h₂ h₃
  simp [modeOfPulses, h₁, h₂, h₃]

/-- The last pulse of any other train leaves the chip unknown. -/
theorem Chip.pulse_of_no_count (h : c.asleep ≠ some true) (hb : ∀ m : Mode, c.bit ≠ some (23 + m.toNat)) :
    c.pulse true v = { c.forget with asleep := some false } := by
  have hnone : c.counted.bit.bind modeOfPulses = none := by
    cases hc : c.bit with
    | none => simp [Chip.counted, hc]
    | some k =>
      simp only [Chip.counted, hc, Option.map_some, Option.bind_some]
      exact modeOfPulses_eq_none fun m hm => hb m (hc.trans (congrArg some (by omega)))
  rw [Chip.pulse_of_last v h, Chip.trainEnd_of_none v hnone]
  rfl

/-- Every pulse lowers the clock, so the chip is awake after it (R28). -/
@[simp] theorem Chip.pulse_asleep (last : Bool) : (c.pulse last v).asleep = some false := by
  cases last
  · simp [Chip.pulse]
  · simp only [Chip.pulse, Chip.trainEnd, if_true]
    split <;> simp [Chip.forget]

end

/-! ### What a command or a micro-step does to the chip -/

variable {i : Instr} {s t : State}

/-- The six instructions that can touch the chip. -/
theorem Effect.chip_of_not_mem (h : Effect s i t)
    (hi : i ∉ [.restart, .unpark, .park, .deactivate, .uWaitrdy, .uLo]) : t.chip = s.chip := by
  cases h <;> simp at hi ⊢

/-- A high sample of the ready wait leaves the chip as it was. -/
theorem Effect.chip_of_unready (h : Effect s .uWaitrdy t) (high : s.env.data = true) : t.chip = s.chip := by
  cases h with
  | ready _ low => simp [high] at low
  | _ => rfl

/-- Under an activated sequencer u.LO is one pulse to the chip, the last of its train when one was left. -/
theorem Effect.chip_of_uLo (h : Effect s .uLo t) (active : s.block.act = true) :
    t.chip = s.chip.pulse (decide (s.block.cnt = 1)) s.env.conv := by
  cases h with
  | inactive _ idle => simp [active] at idle
  | lo _ more => rw [decide_eq_false more]; rfl
  | loLast _ last => rw [decide_eq_true last]; rfl

/-- Settles O28: the six instructions by the chip's events, all others by their frame. -/
theorem chipFollowsThePins : Obligations.ChipFollowsThePins := by
  intro i s t h
  refine ⟨(effect_of_exec h).chip_of_not_mem, ?_, ?_, ?_, ?_, ?_, ?_, ?_, ?_, ?_, ?_⟩
  · rintro (rfl | rfl)
    · obtain rfl := Effect.restart.eq_of_exec h
      exact Chip.released_eq _ _
    · obtain rfl := Effect.unpark.eq_of_exec h
      exact Chip.released_eq _ _
  · rintro rfl
    obtain rfl := Effect.park.eq_of_exec h
    exact Chip.parked_eq _ _
  · rintro rfl
    obtain rfl := Effect.deactivate.eq_of_exec h
    exact Chip.frozen_eq _ _
  · rintro (rfl | rfl) idle <;> rw [(Effect.inactive (by simp) idle).eq_of_exec h]
  · rintro rfl active low
    obtain rfl := (Effect.ready active low).eq_of_exec h
    rfl
  · rintro rfl high
    exact (effect_of_exec h).chip_of_unready high
  · rintro rfl active asleep
    exact ((effect_of_exec h).chip_of_uLo active).trans (Chip.pulse_of_asleep _ _ asleep)
  · rintro rfl active awake more
    rw [(effect_of_exec h).chip_of_uLo active, decide_eq_false more]
    exact Chip.pulse_of_more _ awake
  · rintro m rfl active awake last hbit
    rw [(effect_of_exec h).chip_of_uLo active, decide_eq_true last]
    exact Chip.pulse_of_count _ awake hbit
  · rintro rfl active awake last hbit
    rw [(effect_of_exec h).chip_of_uLo active, decide_eq_true last]
    exact Chip.pulse_of_no_count _ awake hbit

/-! ### Sleep (R28, R166) -/

/-- No instruction puts the chip to sleep. -/
theorem Effect.asleep_of_asleep (h : Effect s i t) (ht : t.chip.asleep = some true) : s.chip.asleep = some true := by
  cases h with
  | restart | unpark =>
    simp only [respond_chip, toStart_chip, Chip.released_eq] at ht
    split at ht
    · simp at ht
    · split at ht <;> exact ht
  | park =>
    simp only [respond_chip, State.setClk_chip, State.setPhase_chip, State.setChip_chip, Chip.parked_eq] at ht
    split at ht <;> exact ht
  | deactivate =>
    simp only [respond_chip, State.setAct_chip, State.setChip_chip, Chip.frozen_eq] at ht
    split at ht <;> exact ht
  | lo | loLast => simp at ht
  | _ => exact ht

/-- What the chip is after its clock fell: awake, and unknown if it had slept. -/
def WokenFrom (c c' : Chip) : Prop :=
  c'.asleep = some false ∧ (c.asleep = some true → c'.mode = none ∧ c'.next = none ∧ c'.value = none)

theorem Chip.released_wokenFrom (c : Chip) {b : Block} (h : b.clk = true) : WokenFrom c (c.released b) := by
  rw [Chip.released_eq, if_pos h]
  exact ⟨rfl, fun _ => ⟨rfl, rfl, rfl⟩⟩

theorem Chip.pulse_wokenFrom (c : Chip) (last : Bool) (v : BitVec 24) : WokenFrom c (c.pulse last v) := by
  refine ⟨Chip.pulse_asleep v last, fun h => ?_⟩
  rw [Chip.pulse_of_asleep v last h]
  exact ⟨rfl, rfl, rfl⟩

/-- The instructions that lower the clock, RESTART, UNPARK and u.LO, wake the chip. -/
theorem Effect.wokenFrom_of_clk (h : Effect s i t) (hs : s.block.clk = true) (ht : t.block.clk = false) :
    WokenFrom s.chip t.chip := by
  cases h with
  | restart | unpark => exact Chip.released_wokenFrom _ hs
  | lo | loLast => exact Chip.pulse_wokenFrom _ _ _
  | _ => simp [hs] at ht

/-- A step before `settle`: an effect, or nothing that touches the block or the chip. -/
theorem step_effect_or_frame (h : step s = .next t) :
    ∃ t', t = settle s t' ∧ ((∃ i, Effect s i t') ∨ (t'.block = s.block ∧ t'.chip = s.chip)) := by
  obtain ⟨t', rfl, h'⟩ := step_cases h
  refine ⟨t', rfl, ?_⟩
  obtain ⟨_, i, _, _, _, he⟩ | ⟨u, _, _, he⟩ | ⟨_, _, ha⟩ | ⟨_, _, rfl⟩ := h'
  · exact .inl ⟨i, effect_of_exec he⟩
  · exact .inl ⟨u, effect_of_exec he⟩
  · obtain ⟨hb, hc, _⟩ := hostAdvance_frame ha
    exact .inr ⟨hb, hc⟩
  · exact .inr ⟨rfl, rfl⟩

/-- Settles O29: only `settle` puts the chip to sleep, under a clock high on both sides; only RESTART, UNPARK and u.LO lower
the clock, and they wake it. -/
theorem sleepFollowsClock : Obligations.SleepFollowsClock := by
  intro s t h
  obtain ⟨t', rfl, ht'⟩ := step_effect_or_frame h
  constructor
  · intro hs ht
    obtain hsame | ⟨hclk, hclk', _⟩ := sleepBetween_cases s t'
    · have hasleep : t'.chip.asleep = some true := by simpa [settle, hsame] using ht
      obtain ⟨i, he⟩ | ⟨_, hc⟩ := ht'
      · exact absurd (he.asleep_of_asleep hasleep) hs
      · exact absurd (hc ▸ hasleep) hs
    · exact ⟨hclk, by simpa using hclk'⟩
  · intro hs ht
    rw [settle_block] at ht
    rw [settle_chip_of_low (.inr ht)]
    obtain ⟨i, he⟩ | ⟨hb, _⟩ := ht'
    · exact he.wokenFrom_of_clk hs ht
    · simp [hb, hs] at ht

/-! ### What the chip answers (R18, R26) -/

/-- A conforming chip that is awake, with a known value and place, answers the next bit of its payload (R26). -/
theorem Chip.answer_of_known {c : Chip} {v : BitVec 24} {k : Nat} (hc : c.conforms = true) (ha : c.asleep = some false)
    (hv : c.value = some v) (hb : c.bit = some k) :
    c.answer = if k < 24 then some (v.getLsbD (23 - k)) else none := by
  simp [Chip.answer, hc, ha, hv, hb]

/-- A chip not known to be awake, or without a known value or place, answers nothing certain. -/
theorem Chip.answer_of_unknown {c : Chip} (h : c.asleep ≠ some false ∨ c.value = none ∨ c.bit = none) :
    c.answer = none := by
  obtain h | h | h := h
  · simp [Chip.answer, h]
  · simp [Chip.answer, h]
  · cases hv : c.value <;> simp [Chip.answer, h, hv]

/-- Settles O27: the three kinds of chip by their answers. -/
theorem pulseSamples : Obligations.PulseSamples := by
  refine ⟨fun s v i hc ha hv hb hi => ?_, fun s _ h => ?_, fun s h => samplePulse_of_not_conforms h⟩
  · rw [samplePulse, Chip.answer_of_known hc ha hv hb]
    by_cases hle : i ≤ 24
    · rw [if_pos (by omega), if_pos hle, Option.getD_some, show 23 - (i - 1) = 24 - i by omega]
    · rw [if_neg (by omega), if_neg hle, Option.getD_none]
  · rw [samplePulse, Chip.answer_of_unknown h, Option.getD_none]

/-! ### The reset block by commands (R30) -/

/-- Settles O19: SETMODE writes MODE, DEACTIVATE clears ACT, RESTART gives the rest. -/
theorem commandsEstablishReset : Obligations.CommandsEstablishReset := fun _ => ⟨_, rfl, rfl⟩

end Sys2Proof.Machine
end

section
/-! Acquisitions under a schedule (spec/41_microprogram.md R97): a triple over the sequencer's turns, with any quiet turns of
others between them. -/

namespace Sys2Proof.Machine

/-! ### What a quiet turn can change -/

/-- What an acquisition depends on: the block, the chip and the parameters. -/
structure View where
  block : Block
  chip  : Chip
  par   : Params

/-- The view of a state; the host and the environment's choices are left out. -/
def State.view (s : State) : View := ⟨s.block, s.chip, s.par⟩

/-- `I` survives quiet turns in which the environment keeps to `W`: all such a turn can change is that the chip falls asleep
under a high clock (R28). -/
def QuietStable (W : Env → Prop) (I : View → Prop) : Prop :=
  ∀ (e : Env) (v : View), W e → e.sleeps = true → v.block.clk = true → I v →
    I { v with chip := { v.chip with asleep := some true } }

/-- From any state with `I`, on any schedule whose sequencer's turns see the levels `ds`, the turns of others being quiet and
the environment keeping to `W`, the run ends in `Q` with so many rises and falls of the clock. -/
def Acquires (W : Env → Prop) (I : View → Prop) (ds : List (Option Bool)) (ups downs : Nat) (Q : View → Prop) : Prop :=
  ∀ (es : List Env) (s : State), I s.view → (∀ e ∈ es, W e) → sequencerSees ds (turnsOf .sequencer es) →
    othersQuiet es s → rises es s = ups ∧ falls es s = downs ∧ ∃ t, run es s = .next t ∧ Q t.view

section
variable {W : Env → Prop} {I J Q : View → Prop} {ds : List (Option Bool)} {e : Env} {es : List Env} {s t : State}

theorem run_cons (h : stepWith e s = .next t) : run (e :: es) s = run es t := by simp [run, h]

theorem rises_cons (h : stepWith e s = .next t) :
    rises (e :: es) s = (!s.block.clk && t.block.clk).toNat + rises es t := by
  cases hc : !s.block.clk && t.block.clk <;> simp [rises, h, hc]

theorem falls_cons (h : stepWith e s = .next t) :
    falls (e :: es) s = (s.block.clk && !t.block.clk).toNat + falls es t := by
  cases hc : s.block.clk && !t.block.clk <;> simp [falls, h, hc]

/-- A quiet turn leaves the block, and what is `QuietStable`. -/
theorem step_of_quietTurn (hI : QuietStable W I) (hs : I s.view) (hW : W s.env) (hq : quietTurn s)
    (ht : s.env.turn ≠ .sequencer) : ∃ t, step s = .next t ∧ t.block = s.block ∧ I t.view := by
  obtain ⟨t, h, hb, hp, hc | ⟨hclk, hsl, hc⟩⟩ := quietTurn_cases hq ht
  · exact ⟨t, h, hb, by rwa [State.view, hb, hc, hp]⟩
  · refine ⟨t, h, hb, ?_⟩
    rw [State.view, hb, hc, hp]
    exact hI s.env s.view hW hsl hclk hs

/-- A triple holds as soon as it holds where the next turn is the sequencer's, or the schedule has ended: the quiet turns
before that change nothing it speaks of. -/
theorem acquires_of_sequencer_next {ups downs : Nat} (hI : QuietStable W I)
    (hnil : ∀ s : State, I s.view → sequencerSees ds [] → ups = 0 ∧ downs = 0 ∧ Q s.view)
    (hcons : ∀ (e : Env) (es : List Env) (s : State), e.turn = .sequencer → I s.view → (∀ x ∈ e :: es, W x) →
      sequencerSees ds (e :: turnsOf .sequencer es) → othersQuiet (e :: es) s →
      rises (e :: es) s = ups ∧ falls (e :: es) s = downs ∧ ∃ t, run (e :: es) s = .next t ∧ Q t.view) :
    Acquires W I ds ups downs Q := by
  intro es
  induction es with
  | nil =>
    intro s hs _ hsees _
    obtain ⟨rfl, rfl, hQ⟩ := hnil s hs hsees
    exact ⟨rfl, rfl, s, rfl, hQ⟩
  | cons e es ih =>
    intro s hs hW hsees hothers
    by_cases ht : e.turn = .sequencer
    · exact hcons e es s ht hs hW (turnsOf_cons_self ht es ▸ hsees) hothers
    · obtain ⟨hquiet, hrest⟩ := hothers
      obtain ⟨t, hstep, hb, hIt⟩ :=
        step_of_quietTurn (s := { s with env := e }) hI hs (hW e (by simp)) (hquiet ht) ht
      rw [run_cons hstep, rises_cons hstep, falls_cons hstep, hb]
      simpa using ih t hIt (fun x hx => hW x (by simp [hx])) (turnsOf_cons_other ht es ▸ hsees) (hrest t hstep)

/-- With no turn of the sequencer left, nothing happens. -/
theorem Acquires.nil (hI : QuietStable W I) (hQ : ∀ v, I v → Q v) : Acquires W I [] 0 0 Q :=
  acquires_of_sequencer_next hI (fun _ hs _ => ⟨rfl, rfl, hQ _ hs⟩) fun _ _ _ _ _ _ hsees _ => hsees.elim

/-- One turn of the sequencer, from `I` with the clock at `a` to `J` with the clock at `b`, then the rest. -/
theorem Acquires.cons {d : Option Bool} {a b : Bool} {ups downs : Nat} (hI : QuietStable W I)
    (hclk : ∀ v, I v → v.block.clk = a)
    (hstep : ∀ s : State, s.env.turn = .sequencer → W s.env → I s.view → (∀ l, d = some l → s.env.data = l) →
      ∃ t, step s = .next t ∧ t.block.clk = b ∧ J t.view)
    (hJ : Acquires W J ds ups downs Q) :
    Acquires W I (d :: ds) (ups + (!a && b).toNat) (downs + (a && !b).toNat) Q := by
  refine acquires_of_sequencer_next hI (fun _ _ hsees => hsees.elim) fun e es s ht hs hW hsees hothers => ?_
  obtain ⟨-, hlevel, hsees⟩ := hsees
  obtain ⟨t, hst, hb, hJt⟩ := hstep { s with env := e } ht (hW e (by simp)) hs hlevel
  have ha : s.block.clk = a := hclk _ hs
  rw [run_cons hst, rises_cons hst, falls_cons hst, ha, hb]
  obtain ⟨hup, hdown, hrun⟩ := hJ es t hJt (fun x hx => hW x (by simp [hx])) hsees (hothers.2 t hst)
  exact ⟨by rw [hup, Nat.add_comm], by rw [hdown, Nat.add_comm], hrun⟩

/-- The levels are as many as the turns that see them. -/
theorem sequencerSees_length : ∀ {ds : List (Option Bool)} {es : List Env}, sequencerSees ds es → es.length = ds.length
  | [], [], _ => rfl
  | [], _ :: _, h => h.elim
  | _ :: _, [], h => h.elim
  | _ :: _, _ :: _, ⟨_, _, h⟩ => congrArg (· + 1) (sequencerSees_length h)

/-! ### A chip that is not put to sleep -/

/-- The environment lets the chip stay awake. -/
def Wakeful (e : Env) : Prop := e.sleeps = false

theorem quietStable_wakeful : QuietStable Wakeful I := fun _ _ hW hsl => by simp [Wakeful, hsl] at hW

/-- Where the chip is not put to sleep, a turn of the sequencer is the effect of the micro-step and no more. -/
theorem step_of_effect {u : Instr} (ht : s.env.turn = .sequencer) (hW : Wakeful s.env)
    (hpos : decodePhase s.block.phase = .ok u) (he : Effect s u t) :
    ∃ t', step s = .next t' ∧ t'.block = t.block ∧ t'.view = t.view := by
  have hsettle : settle s t = redraw t := by
    have hsl : s.env.sleeps = false := hW
    simp [settle, sleepBetween, hsl]
  exact ⟨redraw t, by simp [step, hpos, ht, he.exec_eq, settled, hsettle], rfl, rfl⟩

/-- `Acquires.cons` by the micro-step of a position, with the edge of the clock it makes, if any. -/
theorem Acquires.microStep {d : Option Bool} {a b : Bool} {ups downs ups' downs' : Nat} {u : Instr} (p : PhaseCode)
    (hu : decodePhase p = .ok u) (hI : ∀ v, I v → v.block.phase = p ∧ v.block.clk = a)
    (heff : ∀ s : State, I s.view → (∀ l, d = some l → s.env.data = l) →
      ∃ t, Effect s u t ∧ t.block.clk = b ∧ J t.view)
    (hJ : Acquires Wakeful J ds ups downs Q)
    (hups : ups' = ups + (!a && b).toNat) (hdowns : downs' = downs + (a && !b).toNat) :
    Acquires Wakeful I (d :: ds) ups' downs' Q := by
  subst hups hdowns
  refine Acquires.cons quietStable_wakeful (fun v hv => (hI v hv).2) (fun s ht hW hs hlevel => ?_) hJ
  obtain ⟨t, he, hb, hJt⟩ := heff s hs hlevel
  have hpos : decodePhase s.block.phase = .ok u := (hI _ hs).1 ▸ hu
  obtain ⟨t', hst, hblock, hview⟩ := step_of_effect ht hW hpos he
  exact ⟨t', hst, hblock ▸ hb, hview ▸ hJt⟩

end

end Sys2Proof.Machine
end

section
/-! What a conforming chip delivers (spec/41_microprogram.md R97 (1), (2), (5), spec/10_state.md R26, R27): the shift register
holds the leading bits of its payload pulse by pulse, and the train selects the mode. -/

namespace Sys2Proof.Machine

/-! ### The bits shifted in -/

/-- After `k` samples the register holds the `k` leading bits of the payload, and below them, from the 25th on, mode bits. -/
def LeadingBits (x : BitVec 24) (k sr : Nat) : Prop := sr / 2 ^ (k - 24) = x.toNat / 2 ^ (24 - k)

theorem leadingBits_zero (x : BitVec 24) : LeadingBits x 0 0 := by
  simp [LeadingBits, Nat.div_eq_of_lt x.isLt]

/-- A further sample: the next bit of the payload, or any mode bit (R26, R94). -/
theorem LeadingBits.succ {x : BitVec 24} {k sr : Nat} {b : Bool} (h : LeadingBits x k sr)
    (hb : k < 24 → b = x.getLsbD (23 - k)) : LeadingBits x (k + 1) (2 * sr + b.toNat) := by
  unfold LeadingBits at *
  by_cases hk : k < 24
  · have hbit : b.toNat = x.toNat / 2 ^ (23 - k) % 2 := by rw [hb hk, BitVec.getLsbD, Nat.toNat_testBit]
    have hsr : sr = x.toNat / 2 ^ (23 - k) / 2 := by
      rw [Nat.div_div_eq_div_mul, ← Nat.pow_succ, show (23 - k).succ = 24 - k by omega, ← h, show k - 24 = 0 by omega]
      simp
    rw [show k + 1 - 24 = 0 by omega, show 24 - (k + 1) = 23 - k by omega]
    omega
  · have hhalf : (2 * sr + b.toNat) / 2 = sr := by cases b <;> simp only [Bool.toNat_false, Bool.toNat_true] <;> omega
    rw [show k + 1 - 24 = (k - 24) + 1 by omega, show 24 - (k + 1) = 24 - k by omega, Nat.pow_succ', ← Nat.div_div_eq_div_mul,
      hhalf, h]

/-- After `24 + m` samples the register is the payload and `m` mode bits (R56, R97 (2)). -/
theorem LeadingBits.raw {x : BitVec 24} {m w : Nat} (h : LeadingBits x (24 + m) w) :
    ∃ g, g < 2 ^ m ∧ w = x.toNat * 2 ^ m + g := by
  refine ⟨w % 2 ^ m, Nat.mod_lt _ (Nat.two_pow_pos m), ?_⟩
  have hx : w / 2 ^ m = x.toNat := by simpa [LeadingBits] using h
  rw [← hx]
  exact (Nat.div_add_mod' w _).symm

/-! ### The stations of the acquisition -/

section
variable (mode : Mode) (inq outq : List Word) (par : Params) (m : Mode) (x : BitVec 24)

/-- What the acquisition leaves alone once its count is taken. -/
def Unmoved (v : View) : Prop :=
  v.block.act = true ∧ v.block.mode = mode ∧ v.block.inq = inq ∧ v.block.outq = outq ∧ v.par = par

/-- A conforming chip, awake, that holds `x`. -/
def Holds (c : Chip) : Prop := c.conforms = true ∧ c.asleep = some false ∧ c.value = some x

/-- In `WAITRDY` with the count of `m`, and a budget for `j` high samples more. -/
structure Waiting (j : Nat) (v : View) : Prop where
  unmoved : Unmoved mode inq outq par v
  holds   : Holds x v.chip
  phase   : v.block.phase = Phase.waitrdy
  clk     : v.block.clk = false
  cnt     : v.block.cnt = count m
  sr      : v.block.sr = 0
  budget  : (Budget.finite j).atMost v.block.rdy = true

/-- In the train, at `p` with the clock at `clk`: `n` pulses left, the rest seen by the chip and its bits in `SR`. -/
structure Pulsing (p : PhaseCode) (clk : Bool) (n k : Nat) (v : View) : Prop where
  unmoved : Unmoved mode inq outq par v
  holds   : Holds x v.chip
  phase   : v.block.phase = p
  clk     : v.block.clk = clk
  cnt     : v.block.cnt.toNat = n
  total   : k + n = 24 + m.toNat
  place   : v.chip.bit = some k
  room    : v.block.sr.toNat < 2 ^ k
  bits    : LeadingBits x k v.block.sr.toNat

/-- After the train: the word in `SR`, and the chip in the mode `m` for the next. -/
structure Sampled (p : PhaseCode) (sr : Word) (v : View) : Prop where
  raw    : LeadingBits x (24 + m.toNat) sr.toNat
  phase  : v.block.phase = p
  clk    : v.block.clk = false
  mode   : v.chip.mode = some m
  next   : v.chip.next = some m
  asleep : v.chip.asleep = some false

/-- In `EMIT`. -/
def Emitting (v : View) : Prop := Unmoved mode inq outq par v ∧ Sampled m x Phase.emit v.block.sr v

/-- Back in `START`, the word in `OUTQ`. -/
def Emitted (v : View) : Prop := ∃ w, Unmoved mode inq (outq ++ [w]) par v ∧ Sampled m x Phase.start w v

variable {mode inq outq par m x} {s : State} {j n k : Nat}

theorem Unmoved.active {v : View} (h : Unmoved mode inq outq par v) : v.block.act = true := by
  obtain ⟨hact, -⟩ := h
  exact hact

/-- What a pulse samples of a chip that holds `x` (R26). -/
theorem Holds.samplePulse_eq (h : Holds x s.chip) (hb : s.chip.bit = some k) (hk : k < 24) :
    samplePulse s = x.getLsbD (23 - k) := by
  obtain ⟨hc, ha, hv⟩ := h
  rw [samplePulse, Chip.answer_of_known hc ha hv hb, if_pos hk, Option.getD_some]

theorem Holds.not_asleep {c : Chip} (h : Holds x c) : c.asleep ≠ some true := by
  obtain ⟨_, ha, _⟩ := h
  simp [ha]

/-- A pulse that is counted leaves the chip holding what it holds. -/
theorem Holds.counted {c : Chip} (h : Holds x c) : Holds x c.counted := by
  obtain ⟨hc, _, hv⟩ := h
  exact ⟨hc, rfl, hv⟩

/-- A high sample costs one of the budget (R92). -/
theorem Waiting.high (h : Waiting mode inq outq par m x (j + 1) s.view) (hd : s.env.data = true) :
    ∃ t, Effect s .uWaitrdy t ∧ t.block.clk = false ∧ Waiting mode inq outq par m x j t.view := by
  have hact : s.block.act = true := h.unmoved.active
  have hbudget := h.budget
  cases hr : s.block.rdy with
  | unbounded => exact ⟨s, .waitOn hact hd hr, h.clk, { h with budget := by simp [State.view, hr, Budget.atMost] }⟩
  | finite r =>
    obtain ⟨r, rfl⟩ : ∃ r', r = r' + 1 := ⟨r - 1, by simp [State.view, hr, Budget.atMost] at hbudget; omega⟩
    exact ⟨_, .waitMore hact hd hr, h.clk, h.unmoved, h.holds, h.phase, h.clk, h.cnt, h.sr,
      by simpa [State.view, hr, Budget.atMost] using hbudget⟩

/-- The low sample starts the train (R92, R26). -/
theorem Waiting.low (h : Waiting mode inq outq par m x j s.view) (hd : s.env.data = false) :
    ∃ t, Effect s .uWaitrdy t ∧ t.block.clk = false ∧
      Pulsing mode inq outq par m x Phase.hi false (24 + m.toNat) 0 t.view := by
  have hsr : s.block.sr = 0 := h.sr
  refine ⟨_, .ready h.unmoved.active hd, h.clk, h.unmoved, h.holds, rfl, h.clk, ?_, Nat.zero_add _, rfl, ?_, ?_⟩
  · exact (congrArg BitVec.toNat h.cnt).trans (count_toNat m)
  · simp [State.view, hsr]
  · simpa [State.view, hsr] using leadingBits_zero x

/-- The leading edge (R93). -/
theorem Pulsing.hi (h : Pulsing mode inq outq par m x Phase.hi false n k s.view) :
    ∃ t, Effect s .uHi t ∧ t.block.clk = true ∧ Pulsing mode inq outq par m x Phase.lo true n k t.view :=
  ⟨_, .hi h.unmoved.active, rfl, h.unmoved, h.holds, rfl, rfl, h.cnt, h.total, h.place, h.room, h.bits⟩

/-- The sample of a pulse goes under the bits shifted in before it (R94). -/
theorem Pulsing.shiftIn_bits (h : Pulsing mode inq outq par m x Phase.lo true (n + 1) k s.view) :
    (shiftIn s.block.sr (samplePulse s)).toNat < 2 ^ (k + 1) ∧
      LeadingBits x (k + 1) (shiftIn s.block.sr (samplePulse s)).toNat := by
  have hm : m.toNat ≤ 3 := by cases m <;> decide
  have htotal := h.total
  obtain ⟨hsr, hlt⟩ := shiftIn_toNat_of_lt (b := samplePulse s) h.room (by omega)
  exact ⟨hlt, hsr ▸ h.bits.succ fun hk => h.holds.samplePulse_eq h.place hk⟩

/-- A pulse that is not the last leaves the train one pulse further (R94). -/
theorem Pulsing.lo (h : Pulsing mode inq outq par m x Phase.lo true (n + 2) k s.view) :
    ∃ t, Effect s .uLo t ∧ t.block.clk = false ∧
      Pulsing mode inq outq par m x Phase.hi false (n + 1) (k + 1) t.view := by
  have hcnt : s.block.cnt.toNat = n + 2 := h.cnt
  have more : s.block.cnt ≠ 1 := fun h1 => by simp [h1] at hcnt
  have nonzero : s.block.cnt ≠ 0 := fun h0 => by simp [h0] at hcnt
  obtain ⟨hroom, hbits⟩ := h.shiftIn_bits
  have hplace : s.chip.bit = some k := h.place
  have htotal := h.total
  have hchip : s.chip.pulse false s.env.conv = s.chip.counted := Chip.pulse_of_more _ h.holds.not_asleep
  refine ⟨_, .lo h.unmoved.active more, rfl, h.unmoved, ?_, rfl, rfl, ?_, by omega, ?_, hroom, hbits⟩
  · exact hchip ▸ h.holds.counted
  · simpa [State.view, hcnt] using decrement_toNat nonzero
  · simp [State.view, hchip, Chip.counted, hplace]

/-- The last pulse ends the train, and its number of pulses selects the mode (R94, R27). -/
theorem Pulsing.last (h : Pulsing mode inq outq par m x Phase.lo true 1 k s.view) :
    ∃ t, Effect s .uLo t ∧ t.block.clk = false ∧ Emitting mode inq outq par m x t.view := by
  have last : s.block.cnt = 1 := BitVec.eq_of_toNat_eq h.cnt
  have hk : k = 23 + m.toNat := by have := h.total; omega
  obtain ⟨_, hbits⟩ := h.shiftIn_bits
  have hchip := Chip.pulse_of_count s.env.conv h.holds.not_asleep (h.place.trans (congrArg some hk))
  refine ⟨_, .loLast h.unmoved.active last, rfl, h.unmoved, ?_, rfl, rfl, ?_, ?_, ?_⟩
  · rw [show 24 + m.toNat = k + 1 by omega]
    exact hbits
  all_goals exact (congrArg _ hchip).trans rfl

/-- The word goes into `OUTQ` (R95). -/
theorem Emitting.emit (room : outq.length < par.outqDepth) (h : Emitting mode inq outq par m x s.view) :
    ∃ t, Effect s .uEmit t ∧ t.block.clk = false ∧ Emitted mode inq outq par m x t.view := by
  obtain ⟨⟨hact, hmode, hinq, hout, hpar⟩, hraw, _, hclk, hcmode, hnext, hasleep⟩ := h
  refine ⟨_, .emit hact ?_, hclk, s.block.sr, ⟨hact, hmode, hinq, ?_, hpar⟩, hraw, rfl, hclk, hcmode, hnext, hasleep⟩
  · show s.view.block.outq.length < s.view.par.outqDepth
    rwa [hout, hpar]
  · exact congrArg (· ++ [s.block.sr]) hout

/-! ### The acquisition, from its end to its beginning -/

theorem acquires_emit (room : outq.length < par.outqDepth) :
    Acquires Wakeful (Emitting mode inq outq par m x) [none] 0 0 (Emitted mode inq outq par m x) :=
  .microStep Phase.emit rfl (fun _ ⟨_, h⟩ => ⟨h.phase, h.clk⟩)
    (fun _ hs _ => hs.emit room) (.nil quietStable_wakeful fun _ => id) rfl rfl

/-- A train with `n + 1` pulses left makes `n + 1` pulses and emits its word. -/
theorem acquires_train (room : outq.length < par.outqDepth) : ∀ n k : Nat,
    Acquires Wakeful (Pulsing mode inq outq par m x Phase.hi false (n + 1) k) (List.replicate (2 * (n + 1) + 1) none)
      (n + 1) (n + 1) (Emitted mode inq outq par m x)
  | 0, k =>
    have hlo : Acquires Wakeful (Pulsing mode inq outq par m x Phase.lo true 1 k) [none, none] 0 1 _ :=
      .microStep Phase.lo rfl (fun _ h => ⟨h.phase, h.clk⟩) (fun _ hs _ => hs.last) (acquires_emit room) rfl rfl
    .microStep Phase.hi rfl (fun _ h => ⟨h.phase, h.clk⟩) (fun _ hs _ => hs.hi) hlo rfl rfl
  | n + 1, k =>
    have hlo : Acquires Wakeful (Pulsing mode inq outq par m x Phase.lo true (n + 2) k)
        (none :: List.replicate (2 * (n + 1) + 1) none) (n + 1) (n + 2) _ :=
      .microStep Phase.lo rfl (fun _ h => ⟨h.phase, h.clk⟩) (fun _ hs _ => hs.lo) (acquires_train room n (k + 1)) rfl rfl
    .microStep Phase.hi rfl (fun _ h => ⟨h.phase, h.clk⟩) (fun _ hs _ => hs.hi) hlo rfl rfl

/-- The ready wait with `j` high samples before the low one (R92, R97 (5)). -/
theorem acquires_wait (room : outq.length < par.outqDepth) : ∀ j : Nat,
    Acquires Wakeful (Waiting mode inq outq par m x j)
      (List.replicate j (some true) ++ some false :: List.replicate (2 * (24 + m.toNat) + 1) none)
      (24 + m.toNat) (24 + m.toNat) (Emitted mode inq outq par m x)
  | 0 => by
    have htrain := acquires_train (mode := mode) (inq := inq) (m := m) (x := x) room (23 + m.toNat) 0
    rw [show 23 + m.toNat + 1 = 24 + m.toNat by omega] at htrain
    exact .microStep Phase.waitrdy rfl (fun _ h => ⟨h.phase, h.clk⟩) (fun _ hs hd => hs.low (hd _ rfl)) htrain rfl rfl
  | j + 1 =>
    .microStep Phase.waitrdy rfl (fun _ h => ⟨h.phase, h.clk⟩) (fun _ hs hd => hs.high (hd _ rfl)) (acquires_wait room j)
      rfl rfl

end

/-- u.FETCH takes the count and loads the budget (R91). -/
theorem waiting_of_fetch {s : State} {m : Mode} {x : BitVec 24} {q : List Word} {k : Nat} (hact : s.block.act = true)
    (hclk : s.block.clk = false) (hinq : s.block.inq = count m :: q) (hchip : Holds x s.chip)
    (hk : (Budget.finite k).atMost s.par.readyBudget = true) :
    ∃ t, Effect s .uFetch t ∧ t.block.clk = false ∧ Waiting s.block.mode q s.block.outq s.par m x k t.view :=
  ⟨_, .fetch hact hinq (countLegal_count m), hclk, ⟨hact, rfl, rfl, rfl, rfl⟩, hchip, rfl, hclk, rfl, rfl, hk⟩

/-- The whole acquisition, from `START` back to `START`. -/
theorem acquires_conversion {s : State} {m : Mode} {x : BitVec 24} {q : List Word} {k : Nat} (hact : s.block.act = true)
    (hphase : s.block.phase = Phase.start) (hclk : s.block.clk = false) (hinq : s.block.inq = count m :: q)
    (room : s.block.outq.length < s.par.outqDepth) (hchip : Holds x s.chip)
    (hk : (Budget.finite k).atMost s.par.readyBudget = true) :
    Acquires Wakeful (· = s.view) (freePulseLevels k (24 + m.toNat)) (24 + m.toNat) (24 + m.toNat)
      (Emitted s.block.mode q s.block.outq s.par m x) := by
  have hstart : ∀ v, v = s.view → v.block.phase = Phase.start ∧ v.block.clk = false := by
    rintro _ rfl
    exact ⟨hphase, hclk⟩
  refine .microStep (b := false) Phase.start rfl hstart (fun r hr _ => ?_) (acquires_wait room k) rfl rfl
  have hb : r.block = s.block := congrArg View.block hr
  have hc : r.chip = s.chip := congrArg View.chip hr
  have hp : r.par = s.par := congrArg View.par hr
  rw [← hb, ← hp]
  exact waiting_of_fetch (hb ▸ hact) (hb ▸ hclk) (hb ▸ hinq) (hc ▸ hchip) (hp ▸ hk)

theorem freePulseLevels_length (k n : Nat) : (freePulseLevels k n).length = 1 + (k + 1) + 2 * n + 1 := by
  simp [freePulseLevels]
  omega

/-- Settles O50: the acquisition as a chain of micro-steps, the leading bits of the payload in `SR` after every pulse. -/
theorem conformingChipDeliversValue : Obligations.ConformingChipDeliversValue := by
  intro s es m k v q hact hphase hclk hinq room hconf hawake hvalue hk hsees hquiet hsleeps
  obtain ⟨hup, hdown, t, hrun, w, ⟨htact, htmode, htinq, htout, htpar⟩, hraw, htphase, htclk, hmode, hnext, hasleep⟩ :=
    acquires_conversion hact hphase hclk hinq room ⟨hconf, hawake, hvalue⟩ hk es s rfl hsleeps hsees hquiet
  obtain ⟨g, hg, hw⟩ := hraw.raw
  exact ⟨(sequencerSees_length hsees).trans (freePulseLevels_length _ _), hup, hdown, t, g, w, hrun, hg, hw, htout, htinq,
    hmode, hnext, hasleep, htphase, htclk, htact, htmode, htpar⟩

end Sys2Proof.Machine
end

section
/-! The order of the queues under a list of commands (spec/20_memory.md R40, R41), and what a step adds to the instruction it
runs (R45, R48). -/

namespace Sys2Proof.Machine

variable {i : Instr} {s t : State}

/-! ### Queues (R40, R41) -/

/-- A list of instructions goes on from the first one's effect. -/
theorem Effect.execAll_cons (h : Effect s i t) (is : List Instr) : execAll (i :: is) s = execAll is t := by
  rw [execAll, h.exec_eq]

/-- PUSHes that all find room append their words in order (R77, R41). -/
theorem execAll_push (vs : List Word) : ∀ s : State, s.block.inq.length + vs.length ≤ s.par.inqDepth →
    ∃ t : State, execAll (vs.map Instr.push) s = .next t ∧
      t.block = { s.block with inq := s.block.inq ++ vs } ∧ t.chip = s.chip ∧ t.par = s.par := by
  induction vs with
  | nil => exact fun s _ => ⟨s, rfl, by simp, rfl, rfl⟩
  | cons v vs ih =>
    intro s fits
    rw [List.length_cons] at fits
    have hpush : Effect s (.push v) (respond (s.setInq (s.block.inq ++ [v])) .nothing) := .push (by omega)
    have rest_fits : (s.block.inq ++ [v]).length + vs.length ≤ s.par.inqDepth := by
      rw [List.length_append, List.length_singleton]
      omega
    obtain ⟨t, hrun, hblock, hchip, hpar⟩ := ih (respond (s.setInq (s.block.inq ++ [v])) .nothing) rest_fits
    exact ⟨t, (hpush.execAll_cons _).trans hrun, by simp [hblock], hchip, hpar⟩

/-- POPs past the words `ws` answer the word behind them and leave what follows it (R81, R41). -/
theorem execAll_pop (ws rest : List Word) (w : Word) : ∀ s : State, s.block.outq = ws ++ w :: rest →
    ∃ t : State, execAll (List.replicate (ws.length + 1) Instr.pop) s = .next t ∧
      t.host.resp = some (.word w) ∧
      t.block = { s.block with outq := rest } ∧ t.chip = s.chip ∧ t.par = s.par := by
  induction ws with
  | nil => exact fun s hq => ⟨_, (Effect.pop hq).execAll_cons [], rfl, rfl, rfl, rfl⟩
  | cons x ws ih =>
    intro s hq
    obtain ⟨t, hrun, hrest⟩ := ih (respond (s.setOutq (ws ++ w :: rest)) (.word x)) rfl
    exact ⟨t, ((Effect.pop hq).execAll_cons _).trans hrun, hrest⟩

/-- Settles O33: induction on the words pushed, and on the words ahead of the one popped. -/
theorem queuesKeepOrder : Obligations.QueuesKeepOrder := ⟨execAll_push, execAll_pop⟩

/-! ### A step (R45, R48, R90) -/

/-- The host's turn with a command at the port runs that command. -/
theorem step_of_command {w : CmdWord} {u : Instr} (legal : decodePhase s.block.phase = .ok u) (turn : s.env.turn = .host)
    (port : s.host.port = some w) (command : decodeCommand w = .ok i) : step s = settled s (exec i s) := by
  simp only [step, legal, turn, hostTurn, port, command]

/-- The sequencer's turn runs the micro-step of the position. -/
theorem step_of_microStep {u : Instr} (legal : decodePhase s.block.phase = .ok u) (turn : s.env.turn = .sequencer) :
    step s = settled s (exec u s) := by
  simp only [step, legal, turn]

@[simp] theorem settle_env (s t : State) : (settle s t).env = Env.draw t.tick := by
  obtain h | ⟨_, _, h⟩ := sleepBetween_cases s t <;> simp [settle, redraw, h]

@[simp] theorem settle_tick (s t : State) : (settle s t).tick = t.tick + 1 := by
  obtain h | ⟨_, _, h⟩ := sleepBetween_cases s t <;> simp [settle, redraw, h]

/-- Of the chip `settle` can change nothing but its sleep. -/
theorem settle_chip_frame (s t : State) : (settle s t).chip = { t.chip with asleep := (settle s t).chip.asleep } := by
  obtain h | ⟨_, _, h⟩ := sleepBetween_cases s t <;> simp [settle, redraw, h]

/-- `settle` changes the chip's sleep only where the clock is high before and after (R28). -/
theorem clk_of_settle_asleep_ne (h : (settle s t).chip.asleep ≠ t.chip.asleep) :
    s.block.clk = true ∧ t.block.clk = true := by
  obtain hsame | ⟨hs, ht, _⟩ := sleepBetween_cases s t
  · exact absurd (by simp [settle, redraw, hsame]) h
  · exact ⟨hs, ht⟩

/-- Settles O4: the two turns that run an instruction, and the frame of `settle`. -/
theorem stepRunsDecodedInstruction : Obligations.StepRunsDecodedInstruction :=
  ⟨fun _ _ _ _ => step_of_command,
    fun _ _ => step_of_microStep,
    fun s t => ⟨settle_block s t, settle_host s t, settle_par s t, settle_env s t, settle_tick s t, settle_chip_frame s t,
      clk_of_settle_asleep_ne⟩⟩

end Sys2Proof.Machine
end

section
/-! Encodings (spec/30_encoding.md R60 to R64): the decoder and the encoder are each other's inverse, what is reserved is
refused under its own name, and so it is by a step. -/

namespace Sys2Proof

/-! ### What decodes -/

/-- A command word is told by its `op` and its `arg` (R60). -/
theorem eq_cmdWord_of_op {w : CmdWord} {n : Nat} (h : (opOf w).toNat = n) :
    w = cmdWord (BitVec.ofNat 4 n) (argOf w) := by
  rw [← h, BitVec.ofNat_toNat, BitVec.setWidth_eq, cmdWord_fields]

theorem eq_cmdWord_zero_of_op {w : CmdWord} {n : Nat} (h : (opOf w).toNat = n) (harg : argOf w = 0) :
    w = cmdWord (BitVec.ofNat 4 n) 0 := by
  rw [← harg]
  exact eq_cmdWord_of_op h

/-- A command word that decodes is the encoding of what it decodes to: its `op` names the command, and its `arg` is the
operand, or 0 where the command takes none. -/
theorem encode_of_decodeCommand {w : CmdWord} {i : Instr} (h : decodeCommand w = .ok i) : encode i = .command w := by
  unfold decodeCommand at h
  split at h
  case h_2 hop | h_7 hop | h_8 hop =>
    cases h
    exact congrArg Code.command (eq_cmdWord_of_op hop).symm
  case h_11 => cases h
  all_goals
    rename_i hop
    obtain ⟨harg, rfl⟩ := noOperand_eq_ok.1 h
    exact congrArg Code.command (eq_cmdWord_zero_of_op hop harg).symm

theorem encode_of_decodePhase {p : PhaseCode} {u : Instr} (h : decodePhase p = .ok u) : encode u = .phase p := by
  obtain ⟨rfl, rfl⟩ | ⟨rfl, rfl⟩ | ⟨rfl, rfl⟩ | ⟨rfl, rfl⟩ | ⟨rfl, rfl⟩ | ⟨rfl, rfl⟩ := decodePhase_cases h <;> rfl

/-- Every instruction is what its encoding decodes to, with every operand at every value. -/
theorem decodeCode_encode (i : Instr) : decodeCode (encode i) = .ok i := by
  cases i with
  | push v | setmode v | decode v => simp [encode, decodeCode, decodeCommand, opOf_cmdWord, argOf_cmdWord]
  | _ => rfl

/-- Settles O1: a word that decodes is an encoding, and every encoding decodes. -/
theorem decodeInvertsEncode : Obligations.DecodeInvertsEncode := by
  intro c i
  constructor
  · intro h
    cases c with
    | command w => exact encode_of_decodeCommand h
    | phase p => exact encode_of_decodePhase h
  · rintro rfl
    exact decodeCode_encode i

/-! ### What is reserved (R63) -/

/-- The two refusals of a command word: its `op` names no command, or its command takes no operand and `arg` is not 0. -/
theorem decodeCommand_eq_error {w : CmdWord} {e : DecodeError} :
    decodeCommand w = .error e ↔
      (e = .badOpcode ∧ ((opOf w).toNat = 0 ∨ 0xB ≤ (opOf w).toNat)) ∨
        (e = .nonzeroArg ∧ (opOf w).toNat ∈ [0x1, 0x3, 0x4, 0x5, 0x6, 0x9, 0xA] ∧ argOf w ≠ 0) := by
  unfold decodeCommand
  split
  case h_2 hop | h_7 hop | h_8 hop => simp [hop]
  case h_11 =>
    simp only [imp_false] at *
    have hreserved : (opOf w).toNat = 0 ∨ 0xB ≤ (opOf w).toNat := by omega
    have hno : (opOf w).toNat ∉ [0x1, 0x3, 0x4, 0x5, 0x6, 0x9, 0xA] := by simp; omega
    simp [hreserved, hno, eq_comm (a := DecodeError.badOpcode)]
  all_goals
    rename_i hop
    simp [noOperand_eq_error, hop, and_comm]

/-- The one refusal of a position: its code is 6 or 7. -/
theorem decodePhase_eq_error {p : PhaseCode} {e : DecodeError} :
    decodePhase p = .error e ↔ e = .badPhase ∧ (p = 6 ∨ p = 7) := by
  constructor
  · intro h
    have hp : ¬ p.toNat < 6 := fun hlt => by
      obtain ⟨u, hu⟩ := decodePhase_of_lt hlt
      cases hu.symm.trans h
    obtain rfl | rfl : p = 6 ∨ p = 7 := by bv_omega
    all_goals
      cases h
      simp
  · rintro ⟨rfl, rfl | rfl⟩ <;> rfl

theorem argOf_ne_zero {w : CmdWord} : argOf w ≠ 0 ↔ w.toNat % 2 ^ 32 ≠ 0 := by
  rw [← argOf_toNat, ne_eq, ne_eq, ← BitVec.toNat_inj]
  rfl

/-- Settles O2: the refusals of the two decoders, with the fields of the word as numbers. -/
theorem reservedEncodingsRefused : Obligations.ReservedEncodingsRefused := by
  refine ⟨fun w => ?_, fun w => ?_, fun p => ?_⟩
  · simp [decodeCommand_eq_error, opOf_toNat]
  · rw [decodeCommand_eq_error, argOf_ne_zero, opOf_toNat]
    simp
  · simp [decodePhase_eq_error]

/-! ### Words of the spec -/

/-- Settles O3: each word is evaluated. -/
theorem specWordsDecode : Obligations.SpecWordsDecode := by
  unfold Obligations.SpecWordsDecode
  decide

end Sys2Proof

namespace Sys2Proof.Machine

variable {s : State}

/-! ### A step refuses what is reserved (R13, R63) -/

/-- A position without a micro-step is refused at every turn (log 16). -/
theorem step_of_reservedPhase {e : DecodeError} (reserved : decodePhase s.block.phase = .error e) :
    step s = .refused (refusalOf e) := by
  simp only [step, reserved]

/-- At the host's turn a command word that does not decode is refused under its reason. -/
theorem step_of_reservedCommand {w : CmdWord} {e : DecodeError} {u : Instr} (legal : decodePhase s.block.phase = .ok u)
    (turn : s.env.turn = .host) (port : s.host.port = some w) (reserved : decodeCommand w = .error e) :
    step s = .refused (refusalOf e) := by
  simp only [step, legal, turn, hostTurn, port, reserved]

/-- Settles O5: the step decodes the position first, then the word at the port. -/
theorem stepRefusesReservedWords : Obligations.StepRefusesReservedWords := by
  constructor
  · exact fun s hp => step_of_reservedPhase (decodePhase_eq_error.2 ⟨rfl, hp⟩)
  · intro s w e hp turn port reserved
    obtain ⟨u, legal⟩ := decodePhase_of_lt hp
    exact step_of_reservedCommand legal turn port reserved

end Sys2Proof.Machine
end

section
/-! The words of OUTQ (spec/30_encoding.md R56, R57): CNT and SR stay within bounds at each position of a train, so the word
a train ends with is below `2^27`. -/

namespace Sys2Proof.Machine

variable {i : Instr} {s t : State}

/-! ### CNT and SR at each position (R14, R15, R94) -/

/-- In START and PARKED nothing is asked of the working registers. -/
theorem trainWithinBounds_of_idle (h : t.block.phase = Phase.start ∨ t.block.phase = Phase.parked) :
    TrainWithinBounds t := by
  obtain h | h := h <;> simp [TrainWithinBounds, h, Phase.inTrain]

/-- In a train there are from 1 to 27 pulses left, and `SR` has the bits of those taken. -/
theorem trainWithinBounds_of_train (ht : Phase.inTrain t.block.phase = true) (hleft : 1 ≤ t.block.cnt.toNat)
    (hmost : t.block.cnt.toNat ≤ 27) (hbits : t.block.sr.toNat < 2 ^ (27 - t.block.cnt.toNat)) : TrainWithinBounds t :=
  ⟨fun h => by simp [h, Phase.inTrain] at ht, fun _ => ⟨hleft, hmost, hbits⟩, fun h => by simp [h, Phase.inTrain] at ht⟩

/-- At EMIT `SR` is an output word. -/
theorem trainWithinBounds_of_emit (hp : t.block.phase = Phase.emit) (hword : OutputWord t.par.sentinel t.block.sr) :
    TrainWithinBounds t :=
  ⟨fun h => by simp [hp] at h, fun h => by simp [hp, Phase.inTrain] at h, fun _ => hword⟩

theorem TrainWithinBounds.train (hs : TrainWithinBounds s) (ht : Phase.inTrain s.block.phase = true) :
    1 ≤ s.block.cnt.toNat ∧ s.block.cnt.toNat ≤ 27 ∧ s.block.sr.toNat < 2 ^ (27 - s.block.cnt.toNat) := by
  obtain ⟨-, htrain, -⟩ := hs
  exact htrain ht

theorem inTrain_of_hi (h : s.block.phase = Phase.hi) : Phase.inTrain s.block.phase = true := by simp [h, Phase.inTrain]

theorem inTrain_of_lo (h : s.block.phase = Phase.lo) : Phase.inTrain s.block.phase = true := by simp [h, Phase.inTrain]

/-- A pulse shifts one bit into `SR`: no bit is lost, and there is room for one bit more than before. -/
theorem TrainWithinBounds.shiftIn_lt (hs : TrainWithinBounds s) (ht : Phase.inTrain s.block.phase = true) (b : Bool) :
    (shiftIn s.block.sr b).toNat < 2 ^ (27 - (s.block.cnt.toNat - 1)) := by
  obtain ⟨hleft, hmost, hbits⟩ := hs.train ht
  obtain ⟨-, hlt⟩ := shiftIn_toNat_of_lt (b := b) hbits (by omega)
  rwa [show 27 - (s.block.cnt.toNat - 1) = 27 - s.block.cnt.toNat + 1 by omega]

/-- u.FETCH loads a legal count over an empty `SR`, each pulse takes one from `CNT` and adds one bit to `SR`, and a train or a
spent budget brings an output word to EMIT. -/
theorem Effect.keeps_trainWithinBounds (hpos : AtItsPosition i s) (h : Effect s i t) (hs : TrainWithinBounds s) :
    TrainWithinBounds t := by
  cases h with
  | restart | unpark | emit => exact trainWithinBounds_of_idle (.inl rfl)
  | park => exact trainWithinBounds_of_idle (.inr rfl)
  | fetch _ _ legal =>
    obtain ⟨hlow, hhigh⟩ := countLegal_bounds legal
    exact ⟨fun _ => ⟨hlow, hhigh, rfl⟩, by simp [Phase.inTrain], by simp⟩
  | ready =>
    obtain ⟨hwait, -, -⟩ := hs
    obtain ⟨hlow, hhigh, hzero⟩ := hwait (hpos 1 rfl)
    refine trainWithinBounds_of_train rfl (Nat.le_trans (by decide) hlow) hhigh ?_
    simp [hzero]
  | giveUp => exact trainWithinBounds_of_emit rfl (.inr rfl)
  | hi =>
    obtain ⟨hleft, hmost, hbits⟩ := hs.train (inTrain_of_hi (hpos 2 rfl))
    exact trainWithinBounds_of_train rfl hleft hmost hbits
  | lo _ more =>
    have ht := inTrain_of_lo (hpos 3 rfl)
    obtain ⟨hleft, hmost, -⟩ := hs.train ht
    have hne : s.block.cnt.toNat ≠ 1 := fun h1 => more (BitVec.eq_of_toNat_eq h1)
    have hdec : (decrement s.env.free s.block.cnt).toNat = s.block.cnt.toNat - 1 :=
      decrement_toNat fun h0 => by simp [h0] at hleft
    refine trainWithinBounds_of_train rfl ?_ ?_ ?_ <;> simp only [State.setCnt_cnt, hdec]
    · omega
    · omega
    · exact hs.shiftIn_lt ht _
  | loLast _ last =>
    have ht := inTrain_of_lo (hpos 3 rfl)
    refine trainWithinBounds_of_emit rfl (.inl ?_)
    simpa [last] using hs.shiftIn_lt ht (samplePulse s)
  | _ => exact hs

/-! ### The words of OUTQ (R20, R56, R57) -/

/-- Only u.EMIT adds a word to `OUTQ`, and it is `SR`, an output word at its position. -/
theorem Effect.keeps_outputWords (hpos : AtItsPosition i s) (h : Effect s i t) (hs : EmittedWordsKnown s) :
    ∀ w ∈ t.block.outq, OutputWord t.par.sentinel w := by
  obtain ⟨⟨-, -, hemit⟩, hwords⟩ := hs
  cases h with
  | pop head => exact fun w hw => hwords w (head ▸ List.mem_cons_of_mem _ hw)
  | emit =>
    intro w hw
    obtain hw | hw := List.mem_append.1 hw
    · exact hwords w hw
    · obtain rfl := List.mem_singleton.1 hw
      exact hemit (hpos 4 rfl)
  | _ => exact hwords

/-- Settles O43: every effect keeps the bounds of the train and the words of OUTQ, and nothing else of a step touches them. -/
theorem emittedWordsKnownAlways : Obligations.EmittedWordsKnownAlways := fun _ _ hs h =>
  step_keeps (fun hb hp _ _ hs => by simpa [EmittedWordsKnown, TrainWithinBounds, hb, hp] using hs)
    (fun hpos he hs => ⟨he.keeps_trainWithinBounds hpos hs.1, he.keeps_outputWords hpos hs⟩) hs h

end Sys2Proof.Machine
end

section
/-! The host commands on the sequencer (spec/40_host_commands.md R76 to R83): the whole next state of each is read off its
effect, and what RESTART, UNPARK and PARK leave of the chip is said once as lemmas about the chip's events. -/

namespace Sys2Proof

/-- The positions of R76 (b). -/
theorem Phase.acquiring_iff {p : PhaseCode} :
    Phase.acquiring p = true ↔ p ∈ [Phase.hi, Phase.lo, Phase.waitrdy, Phase.emit] := by
  simp only [Phase.acquiring, decide_eq_true_eq, List.mem_cons, List.not_mem_nil, or_false]
  tauto

/-- In the two idle positions no acquisition is in progress. -/
theorem Phase.acquiring_of_idle {p : PhaseCode} (h : p ∈ [Phase.start, Phase.parked]) : Phase.acquiring p = false := by
  simp only [List.mem_cons, List.not_mem_nil, or_false] at h
  obtain rfl | rfl := h <;> rfl

end Sys2Proof

namespace Sys2Proof.Machine

/-! ### The chip under RESTART, UNPARK and PARK (R76, R82, R83) -/

section
variable {c : Chip} {b : Block}

/-- A train cut short, or a high clock that goes low, leaves nothing known of the chip's modes and value. -/
theorem Chip.released_unknown (h : Phase.acquiring b.phase = true ∨ b.clk = true) :
    (c.released b).mode = none ∧ (c.released b).next = none ∧ (c.released b).value = none := by
  have hlost : (Phase.acquiring b.phase || b.clk) = true := Bool.or_eq_true_iff.2 h
  rw [Chip.released, if_pos hlost]
  split <;> exact ⟨rfl, rfl, rfl⟩

theorem Chip.released_asleep_of_high (hclk : b.clk = true) : (c.released b).asleep = some false :=
  have ⟨awake, _⟩ := Chip.released_wokenFrom c hclk
  awake

/-- Between acquisitions and under a low clock the chip sees nothing (R76 (a)). -/
theorem Chip.released_of_low (hidle : Phase.acquiring b.phase = false) (hclk : b.clk = false) : c.released b = c := by
  simp [Chip.released, hidle, hclk]

theorem Chip.parked_of_acquiring (h : Phase.acquiring b.phase = true) : c.parked b = c.forget := if_pos h

theorem Chip.parked_of_idle (h : Phase.acquiring b.phase = false) : c.parked b = c := by
  simp [Chip.parked, h]

end

/-! ### RESTART, UNPARK and PARK -/

/-- Settles O9: the block by RESTART's effect, the chip by what it sees of a release. -/
theorem restartGoesToStart : Obligations.RestartGoesToStart := fun _ =>
  ⟨_, Effect.restart.exec_eq, rfl, rfl, rfl, rfl, rfl,
    fun hcut => Chip.released_unknown (.inl (Phase.acquiring_iff.2 hcut)),
    fun hstart hlow => Chip.released_of_low (Phase.acquiring_of_idle (by simp [hstart])) hlow⟩

/-- Settles O10: UNPARK and RESTART have the same effect, and a high clock that it lowers wakes the chip. -/
theorem unparkActsAsRestart : Obligations.UnparkActsAsRestart := fun _ =>
  ⟨Effect.unpark.exec_eq.trans Effect.restart.exec_eq.symm,
    _, Effect.unpark.exec_eq, rfl, rfl, rfl, rfl, rfl,
    fun hhigh => ⟨Chip.released_asleep_of_high hhigh, Chip.released_unknown (.inr hhigh)⟩⟩

/-- Settles O16: the block by PARK's effect, the chip by whether PARK cuts a train short. -/
theorem parkRaisesClock : Obligations.ParkRaisesClock := by
  intro s
  refine ⟨_, Effect.park.exec_eq, rfl, rfl, rfl, rfl, rfl, fun hcut => ?_, fun hidle => ?_⟩
  · have hchip : s.chip.parked s.block = s.chip.forget := Chip.parked_of_acquiring (Phase.acquiring_iff.2 hcut)
    simp [hchip, Chip.forget]
  · exact Chip.parked_of_idle (Phase.acquiring_of_idle hidle)

/-! ### The queues from the host's side: PUSH, POLL and POP (R77, R80, R81) -/

/-- Settles O11: the two outcomes of PUSH, told apart by the room in `INQ`. -/
theorem pushAppendsOrHolds : Obligations.PushAppendsOrHolds := fun _ _ =>
  ⟨fun room => (Effect.push room).exec_eq, fun full => (Effect.pushHeld full.ge).exec_eq⟩

/-- `OUT_NE` as a question about the queue itself (R21). -/
theorem outNE_eq (b : Block) : outNE b = if b.outq = [] then false else true := by
  cases h : b.outq <;> simp [outNE, h]

/-- Settles O14: POLL's effect, its flag told by the queue. -/
theorem pollAnswersOccupancy : Obligations.PollAnswersOccupancy := by
  intro s
  rw [← outNE_eq]
  exact Effect.poll.exec_eq

/-- POP's one refusal (R81). -/
theorem exec_pop_of_empty {s : State} (empty : s.block.outq = []) : exec .pop s = .refused .popEmpty := by
  simp only [exec, execPop, qPop_eq_none.2 empty]

/-- Settles O15: POP's effect on a queue with a head, and its refusal on one without. -/
theorem popReturnsHead : Obligations.PopReturnsHead :=
  ⟨fun _ _ _ head => (Effect.pop head).exec_eq, fun _ => exec_pop_of_empty⟩

/-! ### ACTIVATE and DEACTIVATE (R78, R79) -/

/-- Settles O12: ACTIVATE's effect is the write of `ACT` and the response. -/
theorem activateSetsAct : Obligations.ActivateSetsAct := fun _ => Effect.activate.exec_eq

/-- Settles O13: of the block DEACTIVATE's effect writes `ACT` alone. -/
theorem deactivateFreezes : Obligations.DeactivateFreezes := fun _ =>
  ⟨_, Effect.deactivate.exec_eq, rfl, rfl, rfl, rfl, rfl⟩

end Sys2Proof.Machine
end

section
/-! The micro-program (spec/41_microprogram.md R90 to R98): the whole outcome of each micro-step is read off its effect, the
successor of each position is said once per micro-step, and the disabled micro-steps are those whose effect is to hold. -/

namespace Sys2Proof.Machine

variable {i u : Instr} {s t : State}

/-! ### Each micro-step under an activated sequencer, and u.PARKED (R91 to R96) -/

/-- Settles O26: u.PARKED has one effect, and it asks nothing of `ACT`. -/
theorem parkedWaits : Obligations.ParkedWaits := fun _ => Effect.parked.exec_eq

theorem countLegal_iff_mem {n : Word} : countLegal n = true ↔ n ∈ [25, 26, 27] := by
  simp [countLegal_iff]

/-- u.FETCH's one refusal (R91). -/
theorem exec_uFetch_of_illegal {n : Word} {q : List Word} (active : s.block.act = true) (head : s.block.inq = n :: q)
    (illegal : countLegal n = false) : exec .uFetch s = .refused .badCount := by
  simp [exec, execUFetch, whenActive_of_active active, qPop_eq_some.2 head, illegal]

/-- Settles O21: u.FETCH's two effects on an activated sequencer, and its refusal. -/
theorem fetchTakesCount : Obligations.FetchTakesCount := fun _ active =>
  ⟨fun empty => (Effect.fetchHeld active empty).exec_eq, fun _ _ head =>
    ⟨fun legal => (Effect.fetch active head (countLegal_iff_mem.2 legal)).exec_eq, fun illegal =>
      exec_uFetch_of_illegal active head (Bool.eq_false_iff.2 fun legal => illegal (countLegal_iff_mem.1 legal))⟩⟩

/-- Settles O22: u.WAITRDY's four effects on an activated sequencer, told apart by the sample and RDY. -/
theorem waitReadyWatchesLevel : Obligations.WaitReadyWatchesLevel := fun _ active =>
  ⟨fun low => ⟨_, (Effect.ready active low).exec_eq, rfl, rfl, rfl, rfl, rfl⟩,
    fun high spent => (Effect.giveUp active high spent).exec_eq,
    fun _ high left => (Effect.waitMore active high left).exec_eq,
    fun high endless => (Effect.waitOn active high endless).exec_eq⟩

/-- Settles O23: u.HI's one effect on an activated sequencer. -/
theorem hiRaisesClock : Obligations.HiRaisesClock := fun _ active => (Effect.hi active).exec_eq

/-- Both effects of u.LO in one: whether the pulse is the last of its train tells the chip's event and the position. -/
theorem effect_uLo (active : s.block.act = true) :
    Effect s .uLo
      (((((s.setChip (s.chip.pulse (decide (s.block.cnt = 1)) s.env.conv)).setSr
        (shiftIn s.block.sr (samplePulse s))).setClk false).setPhase
          (if s.block.cnt = 1 then Phase.emit else Phase.hi)).setCnt (decrement s.env.free s.block.cnt)) := by
  by_cases last : s.block.cnt = 1
  · rw [decide_eq_true last, if_pos last]
    exact .loLast active last
  · rw [decide_eq_false last, if_neg last]
    exact .lo active last

/-- Settles O24: u.LO's effect, with the shift and the decrement in arithmetic. -/
theorem loSamplesAndLowersClock : Obligations.LoSamplesAndLowersClock := fun _ active =>
  ⟨_, (effect_uLo active).exec_eq, shiftIn_toNat _ _, rfl, rfl, decrement_toNat, rfl, Chip.pulse_conforms _ _ _,
    rfl, rfl, rfl, rfl⟩

/-- Settles O25: u.EMIT's two effects on an activated sequencer, told apart by the room in `OUTQ`. -/
theorem emitAppendsOrHolds : Obligations.EmitAppendsOrHolds := fun _ active =>
  ⟨fun room => (Effect.emit active room).exec_eq, fun full => (Effect.emitHeld active full.ge).exec_eq⟩

/-! ### The successor of each position (R98) -/

theorem Effect.phase_of_uFetch (h : Effect s .uFetch t) (active : s.block.act = true) :
    t.block.phase = if s.block.inq = [] then s.block.phase else Phase.waitrdy := by
  cases h with
  | inactive _ idle => simp [active] at idle
  | fetchHeld _ empty => simp [empty]
  | fetch _ head _ => simp [head]

theorem Effect.phase_of_uWaitrdy (h : Effect s .uWaitrdy t) (active : s.block.act = true) :
    t.block.phase =
      if s.env.data = false then Phase.hi else if s.block.rdy = .finite 0 then Phase.emit else s.block.phase := by
  cases h with
  | inactive _ idle => simp [active] at idle
  | ready _ low => simp [low]
  | giveUp _ high spent => simp [high, spent]
  | waitMore _ high left => simp [high, left]
  | waitOn _ high endless => simp [high, endless]

theorem Effect.phase_of_uHi (h : Effect s .uHi t) (active : s.block.act = true) : t.block.phase = Phase.lo := by
  obtain rfl := (Effect.hi active).eq_of_exec h.exec_eq
  rfl

theorem Effect.phase_of_uLo (h : Effect s .uLo t) (active : s.block.act = true) :
    t.block.phase = if s.block.cnt = 1 then Phase.emit else Phase.hi := by
  obtain rfl := (effect_uLo active).eq_of_exec h.exec_eq
  rfl

theorem Effect.phase_of_uEmit (h : Effect s .uEmit t) (active : s.block.act = true) :
    t.block.phase = if s.block.outq.length < s.par.outqDepth then Phase.start else s.block.phase := by
  cases h with
  | inactive _ idle => simp [active] at idle
  | emit _ room => simp [room]
  | emitHeld _ full => simp [full.not_gt]

theorem Effect.phase_of_uParked (h : Effect s .uParked t) : t.block.phase = s.block.phase := by
  obtain rfl := Effect.parked.eq_of_exec h.exec_eq
  rfl

/-- Of the host's commands RESTART, UNPARK and PARK alone write the position. -/
theorem Effect.phase_of_command (h : Effect s i t) (command : i ∉ [.uFetch, .uWaitrdy, .uHi, .uLo, .uEmit, .uParked]) :
    t.block.phase =
      if i = .restart ∨ i = .unpark then Phase.start else if i = .park then Phase.parked else s.block.phase := by
  cases h with
  | inactive micro _ => exact absurd (List.mem_append_left [Instr.uParked] micro) command
  | _ => simp at command ⊢

/-- Settles O30: the row of R98's table for each position, and the frame of the host's commands. -/
theorem phaseSuccessors : Obligations.PhaseSuccessors := by
  constructor
  · intro s t u active hd h
    have he := effect_of_exec h
    obtain ⟨hp, rfl⟩ | ⟨hp, rfl⟩ | ⟨hp, rfl⟩ | ⟨hp, rfl⟩ | ⟨hp, rfl⟩ | ⟨hp, rfl⟩ := decodePhase_cases hd
    · simp [he.phase_of_uFetch active, hp]
    · simp [he.phase_of_uWaitrdy active, hp]
    · simp [he.phase_of_uHi active, hp]
    · simp [he.phase_of_uLo active, hp]
    · simp [he.phase_of_uEmit active, hp]
    · simp [he.phase_of_uParked, hp]
  · intro s t w i hd h
    exact (effect_of_exec h).phase_of_command (decodeCommand_command hd)

/-! ### Micro-steps that are not enabled (R90, R174) -/

/-- With `ACT = 0` the five micro-steps that it gates hold, and u.PARKED does so anyway. -/
theorem effect_of_inactive {p : PhaseCode} (idle : s.block.act = false) (h : decodePhase p = .ok u) : Effect s u s := by
  obtain ⟨-, rfl⟩ | ⟨-, rfl⟩ | ⟨-, rfl⟩ | ⟨-, rfl⟩ | ⟨-, rfl⟩ | ⟨-, rfl⟩ := decodePhase_cases h
  case inr.inr.inr.inr.inr => exact .parked
  all_goals exact .inactive (by simp) idle

/-- Settles O20: with `ACT = 0` every micro-step's effect is to hold. -/
theorem deactivatedTakesNoStep : Obligations.DeactivatedTakesNoStep := fun _ _ _ idle h =>
  (effect_of_inactive idle h).exec_eq

/-- The four ways of not being enabled: `ACT = 0`, nothing to fetch, no room to emit, and a position that waits. -/
theorem microEnabled_eq_false : microEnabled s = false ↔
    s.block.act = false ∨ (s.block.phase = Phase.start ∧ s.block.inq = []) ∨
      (s.block.phase = Phase.emit ∧ s.par.outqDepth ≤ s.block.outq.length) ∨
      s.block.phase ∉ [Phase.start, Phase.waitrdy, Phase.hi, Phase.lo, Phase.emit] := by
  unfold microEnabled
  rw [Bool.and_eq_false_iff]
  refine or_congr_right ?_
  split
  next hp => simp [hp]
  next hp =>
    split
    next hp' => simp [hp']
    next hp' =>
      simp only [decide_eq_false_iff_not, List.mem_cons, List.not_mem_nil, hp, hp', false_and, false_or, or_false]

theorem atRest_iff : atRest s = true ↔
    s.block.act = false ∨ (s.block.phase = Phase.start ∧ s.block.inq = []) ∨ s.block.phase = Phase.parked := by
  simp [atRest, or_assoc]

/-- A position's micro-step that is not enabled has the effect of a hold. -/
theorem effect_of_disabled (disabled : microEnabled s = false) (h : decodePhase s.block.phase = .ok u) : Effect s u s := by
  cases active : s.block.act with
  | false => exact effect_of_inactive active h
  | true =>
    obtain idle | ⟨hp, empty⟩ | ⟨hp, full⟩ | waits := microEnabled_eq_false.1 disabled
    · simp [active] at idle
    · obtain rfl : .uFetch = u := by simpa [hp, decodePhase] using h
      exact .fetchHeld active empty
    · obtain rfl : .uEmit = u := by simpa [hp, decodePhase] using h
      exact .emitHeld active full
    · obtain rfl : u = .uParked := by
        obtain ⟨hp, rfl⟩ | ⟨hp, rfl⟩ | ⟨hp, rfl⟩ | ⟨hp, rfl⟩ | ⟨hp, rfl⟩ | ⟨-, rfl⟩ := decodePhase_cases h
        case inr.inr.inr.inr.inr => rfl
        all_goals simp [hp] at waits
      exact .parked

/-- Settles O35: a disabled micro-step's effect is to hold, and each way of being at rest is a way of not being enabled. -/
theorem disabledMicroStepWaits : Obligations.DisabledMicroStepWaits := by
  constructor
  · exact fun s u disabled h => (effect_of_disabled disabled h).exec_eq
  · intro s rest
    obtain idle | fetchWaits | parked := atRest_iff.1 rest
    · exact microEnabled_eq_false.2 (.inl idle)
    · exact microEnabled_eq_false.2 (.inr (.inl fetchWaits))
    · exact microEnabled_eq_false.2 (.inr (.inr (.inr (by simp [parked]))))

end Sys2Proof.Machine
end

section
/-! The decoder of modes and samples (spec/42_decode.md R105 to R111): the coercion and `decode` in integer arithmetic, and
with them what SETMODE and DECODE answer. -/

namespace Sys2Proof.Machine

/-! ### SETMODE (R105, R106) -/

theorem coerce_toNat (v : Word) : (coerce v).toNat = if v = 1 ∨ v = 2 ∨ v = 3 then v.toNat else 1 := by
  by_cases h : v = 1 ∨ v = 2 ∨ v = 3
  · rw [if_pos h]
    obtain rfl | rfl | rfl := h <;> rfl
  · rw [if_neg h]
    obtain ⟨-, h2, h3⟩ : v ≠ 1 ∧ v ≠ 2 ∧ v ≠ 3 := by simpa only [not_or] using h
    rw [coerce, if_neg h2, if_neg h3, Mode.toNat]

/-- Settles O17: SETMODE's one effect writes the coerced mode. -/
theorem setmodeCoerces : Obligations.SetmodeCoerces := fun _ v =>
  ⟨_, coerce v, coerce_toNat v, Effect.setmode.exec_eq, rfl, rfl, rfl, rfl, rfl, rfl⟩

/-! ### `decode` in integer arithmetic (R108, R110) -/

/-- The logical shift is a division (R110 (d)). -/
theorem decodeSample_eq_sampleOf (w : Word) (m : Mode) : decodeSample w m = sampleOf w.toNat m := by
  simp [decodeSample, sampleOf, Nat.shiftRight_eq_div_pow]

/-- The shift is by at least one place, so 31 bits hold what it leaves. -/
theorem toNat_shiftRight_mode_lt (w : Word) (m : Mode) : w.toNat >>> m.toNat < 2 ^ 31 := by
  have hw := w.isLt
  cases m <;> simp only [Mode.toNat, Nat.shiftRight_eq_div_pow] <;> omega

theorem decodeSample_bounds (w : Word) (m : Mode) : -(2 ^ 23) ≤ decodeSample w m ∧ decodeSample w m < 2 ^ 31 - 2 ^ 24 := by
  have hd := toNat_shiftRight_mode_lt w m
  simp only [decodeSample]
  generalize w.toNat >>> m.toNat = d at hd ⊢
  split <;> omega

/-! ### DECODE (R109) -/

/-- Every sample fits the word it is answered in (R58). -/
theorem sampleWord_decodeSample_toInt (w : Word) (m : Mode) :
    (sampleWord (decodeSample w m)).toInt = sampleOf w.toNat m := by
  obtain ⟨lo, hi⟩ := decodeSample_bounds w m
  rw [sampleWord, BitVec.toInt_ofInt_eq_self (by decide) (by omega) (by omega), decodeSample_eq_sampleOf]

theorem decodeResponse_sentinel (w : Word) (m : Mode) : decodeResponse w w m = .failure .sensorNotResponding := if_pos rfl

theorem decodeResponse_of_ne {sentinel w : Word} (m : Mode) (h : w ≠ sentinel) :
    decodeResponse sentinel w m = .sample (sampleWord (decodeSample w m)) := if_neg h

/-- Settles O18: DECODE's one effect is its answer, which is the failure on the sentinel and else a sample that fits. -/
theorem decodeAnswersSampleOrFailure : Obligations.DecodeAnswersSampleOrFailure := by
  intro s w
  constructor
  · rintro rfl
    rw [Effect.decode.exec_eq, decodeResponse_sentinel]
    rfl
  · intro h
    refine ⟨_, sampleWord_decodeSample_toInt w s.block.mode, ?_⟩
    rw [Effect.decode.exec_eq, decodeResponse_of_ne _ h]
    rfl

/-! ### Raw words (R56, R111) -/

section
variable {m : Mode} {r g : Nat}

/-- The mode bits never influence a raw word's sample. -/
theorem sampleOf_raw (hg : g < 2 ^ m.toNat) :
    sampleOf (r * 2 ^ m.toNat + g) m = if 2 ^ 23 - 1 < r then (r : Int) - 2 ^ 24 else (r : Int) := by
  have payload : (r * 2 ^ m.toNat + g) / 2 ^ m.toNat = r := Nat.div_eq_of_lt_le (by omega) (by rw [Nat.succ_mul]; omega)
  unfold sampleOf
  norm_cast
  rw [payload]

/-- A raw word has at most 27 bits. -/
theorem raw_lt (hr : r < 2 ^ 24) (hg : g < 2 ^ m.toNat) : r * 2 ^ m.toNat + g < 2 ^ 27 := by
  cases m <;> simp only [Mode.toNat] at * <;> omega

theorem decodeSample_raw (hr : r < 2 ^ 24) (hg : g < 2 ^ m.toNat) :
    decodeSample (BitVec.ofNat 32 (r * 2 ^ m.toNat + g)) m = if 2 ^ 23 - 1 < r then (r : Int) - 2 ^ 24 else (r : Int) := by
  have short := raw_lt hr hg
  rw [decodeSample_eq_sampleOf, BitVec.toNat_ofNat, Nat.mod_eq_of_lt (by omega), sampleOf_raw hg]

theorem sext24_ofNat (hr : r < 2 ^ 24) :
    sext24 (BitVec.ofNat 24 r) = if 2 ^ 23 - 1 < r then (r : Int) - 2 ^ 24 else (r : Int) := by
  rw [sext24, BitVec.toNat_ofNat, Nat.mod_eq_of_lt hr]
  split <;> split <;> omega

end

/-- Settles O40: the shift of a raw word leaves its payload, on which `decode` and `sext_24` are one function. -/
theorem decodeOfRawWord : Obligations.DecodeOfRawWord := fun _ _ _ hr hg =>
  ⟨decodeSample_raw hr hg, (decodeSample_raw hr hg).trans (sext24_ofNat hr).symm⟩

end Sys2Proof.Machine
end

section
/-! The host's turns (spec/43_sequences.md R120 to R127): what each takes the host and the block from and to, and paths of such
turns, run by the host alone or with idle turns of others between them. -/

namespace Sys2Proof.Machine

/-! ### A second context (R127) -/

/-- Settles O6: the position decodes, and a turn of a second context with a command is refused. -/
theorem secondContextRefused : Obligations.SecondContextRefused := by
  intro s legal turn commands
  obtain ⟨u, hu⟩ := decodePhase_of_lt legal
  obtain ⟨w, ws, hf⟩ := List.exists_cons_of_ne_nil commands
  have refused : foreignTurn s = .refused .interleavedSequences := by simp [foreignTurn, hf]
  simp only [step, hu, turn, refused, settled]

/-! ### Runs in pieces, the end of a step, and what no step touches -/

section
variable {es fs : List Env} {s t : State}

/-- A run that goes on to `t` goes on from there. -/
theorem run_append (h : run es s = .next t) : run (es ++ fs) s = run fs t := by
  induction es generalizing s with
  | nil => cases h; rfl
  | cons e es ih =>
    cases hst : stepWith e s <;> simp only [run, hst, List.cons_append, reduceCtorEq] at h ⊢
    exact ih h

/-- What survives the chip's falling asleep survives the end of a step (R28). -/
theorem settle_view {W : Env → Prop} {J : View → Prop} (quiet : QuietStable W J) (hW : W s.env) (h : J t.view) :
    J (settle s t).view := by
  unfold settle sleepBetween
  split
  next sleeps =>
    simp only [Bool.and_eq_true] at sleeps
    obtain ⟨⟨-, high⟩, hsleeps⟩ := sleeps
    exact quiet s.env t.view hW hsleeps high h
  next => exact h

/-- No instruction touches the commands of a second context (log 13). -/
theorem Effect.foreign_eq {i : Instr} (h : Effect s i t) : t.host.foreign = s.host.foreign := by
  cases h <;> rfl

/-- No step touches the commands of a second context (log 13). -/
theorem step_foreign (h : step s = .next t) : t.host.foreign = s.host.foreign := by
  obtain ⟨t', rfl, h'⟩ := step_cases h
  rw [settle_host]
  obtain ⟨_, i, _, _, _, he⟩ | ⟨u, _, _, he⟩ | ⟨_, _, ha⟩ | ⟨_, _, rfl⟩ := h'
  · exact (effect_of_exec he).foreign_eq
  · exact (effect_of_exec he).foreign_eq
  · obtain ⟨_, _, _, _, _, _, hf⟩ := hostAdvance_frame ha
    exact hf
  · rfl

theorem run_foreign (h : run es s = .next t) : t.host.foreign = s.host.foreign := by
  induction es generalizing s with
  | nil => cases h; rfl
  | cons e es ih =>
    cases hst : stepWith e s <;> simp only [run, hst, reduceCtorEq] at h
    exact (ih h).trans (step_foreign (s := { s with env := e }) hst)

end

/-! ### Turns of the host -/

/-- Every environment. -/
abbrev Any : Env → Prop := fun _ => True

/-- What is known of the view between two turns: the position is legal, and a chip that falls asleep changes nothing of it. -/
structure Station (W : Env → Prop) (I : View → Prop) : Prop where
  legal : ∀ v, I v → v.block.phase.toNat < 6
  quiet : QuietStable W I

/-- A turn of the host takes it from `h` to `h'`, and the view from `I` to `J`. -/
def HostMoves (W : Env → Prop) (h : HostState) (I : View → Prop) (h' : HostState) (J : View → Prop) : Prop :=
  ∀ s : State, s.env.turn = .host → W s.env → s.host = h → I s.view →
    ∃ t, step s = .next t ∧ t.host = h' ∧ J t.view

section
variable {W : Env → Prop} {h h' : HostState} {I J : View → Prop}

/-- A turn with no command at the port leaves the view. -/
theorem HostMoves.of_advance (hI : Station W I) (hp : h.port = none)
    (ha : ∀ s : State, W s.env → s.host = h → I s.view → ∃ t, hostAdvance s = .next t ∧ t.host = h') : HostMoves W h I h' I := by
  rintro s turn hW rfl hs
  obtain ⟨u, hu⟩ : ∃ u, decodePhase s.block.phase = .ok u := decodePhase_of_lt (hI.legal _ hs)
  obtain ⟨t, hat, ht⟩ := ha s hW rfl hs
  obtain ⟨hb, hc, hpar, -⟩ := hostAdvance_frame hat
  have hview : t.view = s.view := by simp only [State.view, hb, hc, hpar]
  exact ⟨settle s t, by simp only [step, hu, turn, hostTurn, hp, hat, settled], by simp [ht],
    settle_view hI.quiet hW (hview ▸ hs)⟩

/-- A turn with a command at the port has the command's effect. -/
theorem HostMoves.of_effect {w : CmdWord} {i : Instr} (hI : Station W I) (hJ : Station W J) (hp : h.port = some w)
    (hd : decodeCommand w = .ok i)
    (he : ∀ s : State, s.host = h → I s.view → ∃ t, Effect s i t ∧ t.host = h' ∧ J t.view) : HostMoves W h I h' J := by
  rintro s turn hW rfl hs
  obtain ⟨u, hu⟩ : ∃ u, decodePhase s.block.phase = .ok u := decodePhase_of_lt (hI.legal _ hs)
  obtain ⟨t, het, ht, hJt⟩ := he s rfl hs
  exact ⟨settle s t, by rw [step_of_command hu turn hp hd, het.exec_eq, settled], by simp [ht], settle_view hJ.quiet hW hJt⟩

end

/-! ### Within a line -/

/-- The host in the middle of a line: what is left of it, the command at the port and the last response. -/
def HostState.doing (h : HostState) (seq : List SeqStep) (port : Option CmdWord) (resp : Option Response) : HostState :=
  { h with seq := seq, port := port, resp := resp }

theorem commandWord_doing (h : HostState) (seq : List SeqStep) (port : Option CmdWord) (resp : Option Response) (c : Cmd) :
    commandWord (h.doing seq port resp) c = commandWord h c := by
  have operand : ∀ o, operandValue (h.doing seq port resp) o = operandValue h o := fun o => by cases o <;> rfl
  cases c <;> simp only [commandWord, operand]

/-- In a line, with no command at the port, the host does the next thing of the line. -/
theorem hostAdvance_of_seq {s : State} {l : Line} {x : SeqStep} {rest : List SeqStep} (hl : s.host.line = some l)
    (hs : s.host.seq = x :: rest) : hostAdvance s = hostSeqStep x rest s := by
  simp only [hostAdvance, hl, hs]

theorem takeResponse_of_failure {s : State} {f : Failure} {rest : List SeqStep} (h : s.host.resp = some (.failure f)) :
    takeResponse rest s = raiseFailure f s := by simp only [takeResponse, h]

theorem takeResponse_of_sample {s : State} {w : Word} {rest : List SeqStep} (h : s.host.resp = some (.sample w)) :
    takeResponse rest s = s.setHost { s.host with result := w, seq := rest } := by
  simp only [takeResponse, h, responseValue_of_value h rfl]

/-- A response without a value leaves the line a free one (log 26). -/
theorem takeResponse_of_nothing {s : State} {rest : List SeqStep} (h : s.host.resp = some .nothing) :
    takeResponse rest s = s.setHost { s.host with result := s.env.free, seq := rest } := by
  simp [takeResponse, h, responseValue, Response.value]

section
variable {W : Env → Prop} {h : HostState} {I J : View → Prop} {l : Line} {rest : List SeqStep} {r : Option Response}
variable (hl : h.line = some l) (hI : Station W I)
include hl hI

/-- One thing done in a line, by what it does to the host. -/
theorem HostMoves.of_seqStep {x : SeqStep} {h' : HostState}
    (hx : ∀ s : State, W s.env → s.host = h.doing (x :: rest) none r → ∃ t, hostSeqStep x rest s = .next t ∧ t.host = h') :
    HostMoves W (h.doing (x :: rest) none r) I h' I :=
  .of_advance hI rfl fun s hW hs _ => by
    rw [hostAdvance_of_seq (l := l) (by rw [hs]; exact hl) (by rw [hs]; rfl)]
    exact hx s hW hs

/-- A command is presented at the port. -/
theorem HostMoves.issue {c : Cmd} {w : CmdWord} (hw : commandWord h c = some w) :
    HostMoves W (h.doing (.issue c :: rest) none r) I (h.doing rest (some w) none) I :=
  .of_seqStep hl hI fun s _ hs => by
    rw [hostSeqStep, issueCommand, hs, commandWord_doing, hw]
    exact ⟨_, rfl, rfl⟩

/-- A flag 1 ends READ's polls. -/
theorem HostMoves.flagSeen {left : Nat} :
    HostMoves W (h.doing (.pollCheck left :: rest) none (some (.flag true))) I (h.doing rest none (some (.flag true))) I :=
  .of_seqStep hl hI fun s _ hs => ⟨_, rfl, by simp [afterPoll, hs, HostState.doing]⟩

/-- A flag 0 is followed by another POLL. -/
theorem HostMoves.pollAgain {left : Nat} :
    HostMoves W (h.doing (.pollCheck (left + 1) :: rest) none (some (.flag false))) I
      (h.doing (.issue .poll :: .pollCheck left :: rest) none (some (.flag false))) I :=
  .of_seqStep hl hI fun s _ hs => ⟨_, rfl, by simp [afterPoll, hs, HostState.doing]⟩

/-- A flag 0 after the last POLL is followed by READ step 5. -/
theorem HostMoves.windowOver :
    HostMoves W (h.doing (.pollCheck 0 :: rest) none (some (.flag false))) I
      (h.doing timeoutSteps none (some (.flag false))) I :=
  .of_seqStep hl hI fun s _ hs => ⟨_, rfl, by simp [afterPoll, hs, HostState.doing]⟩

/-- The host after a failure (R142). -/
def HostState.failed (h : HostState) (f : Failure) : HostState :=
  { h with failure := some f, seq := [], line := none, prog := if h.line.any Line.handled then h.prog else [] }

theorem HostMoves.raise {f : Failure} :
    HostMoves W (h.doing (.raise f :: rest) none r) I ((h.doing (.raise f :: rest) none r).failed f) I :=
  .of_seqStep hl hI fun s _ hs => ⟨_, rfl, by rw [← hs]; rfl⟩

/-- The response that carries a word is READ's `w`. -/
theorem HostMoves.takeWord {w : Word} :
    HostMoves W (h.doing (.takeWord :: rest) none (some (.word w))) I
      ({ h with word := w }.doing rest none (some (.word w))) I :=
  .of_seqStep hl hI fun s _ hs => ⟨_, rfl, by
    rw [responseValue_of_value (r := .word w) (by rw [hs]; rfl) rfl, hs]; rfl⟩

/-- A sample is the line's result. -/
theorem HostMoves.takeSample {w : Word} :
    HostMoves W (h.doing (.take :: rest) none (some (.sample w))) I
      ({ h with result := w }.doing rest none (some (.sample w))) I :=
  .of_seqStep hl hI fun s _ hs => ⟨_, rfl, by
    rw [takeResponse_of_sample (by rw [hs]; rfl), hs]; rfl⟩

/-- A failure is raised. -/
theorem HostMoves.takeFailure {f : Failure} :
    HostMoves W (h.doing (.take :: rest) none (some (.failure f))) I
      ((h.doing (.take :: rest) none (some (.failure f))).failed f) I :=
  .of_seqStep hl hI fun s _ hs => ⟨_, rfl, by
    rw [takeResponse_of_failure (by rw [hs]; rfl), ← hs]; rfl⟩

/-- A response without a value leaves the environment's free word as the line's result. -/
theorem HostMoves.takeNothing {w : Word} (hW : ∀ e, W e → e.free = w) :
    HostMoves W (h.doing (.take :: rest) none (some .nothing)) I
      ({ h with result := w }.doing rest none (some .nothing)) I :=
  .of_seqStep hl hI fun s he hs => ⟨_, rfl, by
    rw [takeResponse_of_nothing (by rw [hs]; rfl), hs, hW _ he]; rfl⟩

theorem HostMoves.savePrev :
    HostMoves W (h.doing (.savePrev :: rest) none r) I ({ h with saved := h.modeCopy }.doing rest none r) I :=
  .of_seqStep hl hI fun s _ hs => ⟨_, rfl, by rw [hs]; rfl⟩

theorem HostMoves.keep :
    HostMoves W (h.doing (.keep :: rest) none r) I ({ h with kept := h.result }.doing rest none r) I :=
  .of_seqStep hl hI fun s _ hs => ⟨_, rfl, by rw [hs]; rfl⟩

theorem HostMoves.giveBack :
    HostMoves W (h.doing (.giveBack :: rest) none r) I ({ h with result := h.kept }.doing rest none r) I :=
  .of_seqStep hl hI fun s _ hs => ⟨_, rfl, by rw [hs]; rfl⟩

/-- The end of a line, with its value bound to its name (R66). -/
def HostState.ended (h : HostState) (l : Line) : HostState :=
  { h with line := none, vars := match l.bind with | some n => (n, h.result) :: h.vars | none => h.vars }

theorem HostMoves.endLine : HostMoves W (h.doing [] none r) I ((h.doing [] none r).ended l) I :=
  .of_advance hI rfl fun s _ hs _ => by
    have hline : s.host.line = some l := by rw [hs]; exact hl
    have hseq : s.host.seq = [] := by rw [hs]; rfl
    refine ⟨Machine.endLine l s, by simp only [hostAdvance, hline, hseq], ?_⟩
    rw [Machine.endLine, hs]
    rfl

end

section
variable {W : Env → Prop} {h h' : HostState} {I J : View → Prop}

/-- The host with the first line of its program begun. -/
def HostState.begun (h : HostState) (l : Line) (rest : List Line) : HostState := { h with line := some l, prog := rest }

theorem HostMoves.begin {l : Line} {rest : List Line} {pb : Nat} (hp : h.port = none) (hl : h.line = none)
    (hprog : h.prog = l :: rest) (hI : Station W I) (hpb : ∀ v, I v → v.par.pollBudget = pb) :
    HostMoves W h I ((h.begun l rest).doing (l.op.steps pb) none h.resp) I :=
  .of_advance hI hp fun s _ hs hv => by
    subst hs
    refine ⟨s.setHost { s.host with line := some l, prog := rest, seq := l.op.steps s.par.pollBudget }, ?_, ?_⟩
    · simp only [hostAdvance, hl, hprog]
    · have hpar : s.par.pollBudget = pb := hpb _ hv
      simp [HostState.doing, HostState.begun, hp, hpar]

/-- A command at the port that answers `r`. -/
theorem HostMoves.command {i : Instr} {w : CmdWord} {rest : List SeqStep} {r : Response} (hI : Station W I) (hJ : Station W J)
    (hw : encode i = .command w)
    (he : ∀ s : State, s.host = h.doing rest (some w) none → I s.view →
      ∃ t, Effect s i (respond t r) ∧ t.host = h'.doing rest (some w) none ∧ J t.view) :
    HostMoves W (h.doing rest (some w) none) I (h'.doing rest none (some r)) J :=
  .of_effect hI hJ rfl (hw ▸ decodeCode_encode i : decodeCode (.command w) = .ok i) fun s hs hv => by
    obtain ⟨t, het, ht, hJt⟩ := he s hs hv
    exact ⟨_, het, by rw [respond, ht]; rfl, hJt⟩

/-- POLL leaves the view and answers whether there is a word (R80). -/
theorem HostMoves.poll {rest : List SeqStep} {f : Bool} (hI : Station W I) (hf : ∀ v, I v → outNE v.block = f) :
    HostMoves W (h.doing rest (some (cmdWord 0x5 0)) none) I (h.doing rest none (some (.flag f))) I :=
  .command hI hI (i := .poll) rfl fun s hs hv =>
    have hout : outNE s.block = f := hf _ hv
    ⟨s, hout ▸ .poll, hs, hv⟩

/-- ACTIVATE sets `ACT` (R78). -/
theorem HostMoves.activate {rest : List SeqStep} (hI : Station W I) (hJ : Station W J)
    (hact : ∀ v, I v → J { v with block := { v.block with act := true } }) :
    HostMoves W (h.doing rest (some (cmdWord 0x3 0)) none) I (h.doing rest none (some .nothing)) J :=
  .command hI hJ (i := .activate) rfl fun s hs hv => ⟨s.setAct true, .activate, hs, hact _ hv⟩

/-- DEACTIVATE clears it, and of the chip the rest is whatever a frozen train leaves (R79). -/
theorem HostMoves.deactivate {rest : List SeqStep} (hI : Station W I) (hJ : Station W J)
    (hact : ∀ v, I v → J { v with block := { v.block with act := false }, chip := v.chip.frozen v.block }) :
    HostMoves W (h.doing rest (some (cmdWord 0x4 0)) none) I (h.doing rest none (some .nothing)) J :=
  .command hI hJ (i := .deactivate) rfl fun s hs hv =>
    ⟨(s.setChip (s.chip.frozen s.block)).setAct false, .deactivate, hs, hact _ hv⟩

end

/-! ### Where the whole block is known -/

/-- The block and the parameters are these, and the chip is in `C`. -/
def On (b : Block) (p : Params) (C : Chip → Prop) (v : View) : Prop := v.block = b ∧ v.par = p ∧ C v.chip

/-- Falling asleep leaves the chip in `C`. -/
def SleepProof (C : Chip → Prop) : Prop := ∀ c, C c → C { c with asleep := some true }

/-- The position is legal, and where the clock is high falling asleep leaves the chip in `C`. -/
structure Calm (b : Block) (C : Chip → Prop) : Prop where
  legal  : b.phase.toNat < 6
  sleeps : b.clk = true → SleepProof C

/-- The block RESTART and UNPARK leave (R76, R83). -/
def Block.started (b : Block) : Block :=
  { b with phase := Phase.start, clk := false, cnt := 0, sr := 0, rdy := .finite 0 }

section
variable {W : Env → Prop} {h : HostState} {b : Block} {p : Params} {C C' : Chip → Prop} {rest : List SeqStep}

theorem Calm.station (hb : Calm b C) : Station W (On b p C) where
  legal := fun _ ⟨heq, _⟩ => heq ▸ hb.legal
  quiet := fun _ _ _ _ high ⟨heq, hp, hC⟩ => ⟨heq, hp, hb.sleeps (heq ▸ high) _ hC⟩

/-- In START with the clock low nothing is asked of the chip. -/
theorem calm_of_start (hp : b.phase = Phase.start) (low : b.clk = false) : Calm b C :=
  ⟨by rw [hp]; decide, fun high => by simp [low] at high⟩

/-- RESTART (R76). -/
theorem HostMoves.restart (hb : Calm b C) (hC : ∀ c, C c → C' (c.released b)) :
    HostMoves W (h.doing rest (some (cmdWord 0x1 0)) none) (On b p C)
      (h.doing rest none (some .nothing)) (On b.started p C') :=
  .command hb.station (calm_of_start rfl rfl).station (i := .restart) rfl fun s hs ⟨heq, hp, hc⟩ =>
    ⟨toStart s, .restart, hs, by subst heq hp; exact ⟨rfl, rfl, hC _ hc⟩⟩

/-- PUSH that finds room (R77). -/
theorem HostMoves.push {v : Word} (hb : Calm b C) (room : b.inq.length < p.inqDepth) :
    HostMoves W (h.doing rest (some (cmdWord 0x2 v)) none) (On b p C)
      (h.doing rest none (some .nothing)) (On { b with inq := b.inq ++ [v] } p C) :=
  .command hb.station (Calm.station ⟨hb.legal, hb.sleeps⟩) (i := .push v) rfl fun s hs ⟨heq, hp, hc⟩ => by
    subst heq hp
    exact ⟨s.setInq (s.block.inq ++ [v]), .push room, hs, rfl, rfl, hc⟩

/-- POP (R81). -/
theorem HostMoves.pop {w : Word} {q : List Word} (hb : Calm b C) (head : b.outq = w :: q) :
    HostMoves W (h.doing rest (some (cmdWord 0x6 0)) none) (On b p C)
      (h.doing rest none (some (.word w))) (On { b with outq := q } p C) :=
  .command hb.station (Calm.station ⟨hb.legal, hb.sleeps⟩) (i := .pop) rfl fun s hs ⟨heq, hp, hc⟩ => by
    subst heq hp
    exact ⟨s.setOutq q, .pop head, hs, rfl, rfl, hc⟩

/-- DECODE (R109). -/
theorem HostMoves.decode {w : Word} (hb : Calm b C) :
    HostMoves W (h.doing rest (some (cmdWord 0x8 w)) none) (On b p C)
      (h.doing rest none (some (decodeResponse p.sentinel w b.mode))) (On b p C) :=
  .command hb.station hb.station (i := .decode w) rfl fun s hs ⟨heq, hp, hc⟩ => by
    subst heq hp
    exact ⟨s, .decode, hs, rfl, rfl, hc⟩

/-- SETMODE, which writes the host's copy too (R106, R11). -/
theorem HostMoves.setmode {v : Word} (hb : Calm b C) :
    HostMoves W (h.doing rest (some (cmdWord 0x7 v)) none) (On b p C)
      ({ h with modeCopy := coerce v }.doing rest none (some .nothing)) (On { b with mode := coerce v } p C) :=
  .command hb.station (Calm.station ⟨hb.legal, hb.sleeps⟩) (i := .setmode v) rfl fun s hs ⟨heq, hp, hc⟩ =>
    ⟨(s.setMode (coerce v)).setHost { s.host with modeCopy := coerce v }, .setmode, by rw [hs]; rfl, by
      subst heq hp; exact ⟨rfl, rfl, hc⟩⟩

/-- PARK (R82). -/
theorem HostMoves.park (hb : Calm b C) :
    HostMoves W (h.doing rest (some (cmdWord 0x9 0)) none) (On b p C)
      (h.doing rest none (some .nothing)) (On { b with phase := Phase.parked, clk := true } p fun _ => True) :=
  .command hb.station (Calm.station ⟨(by decide : Phase.parked.toNat < 6), fun _ _ _ => trivial⟩)
    (i := .park) rfl fun s hs ⟨heq, hp, _⟩ =>
    ⟨((s.setChip (s.chip.parked s.block)).setPhase Phase.parked).setClk true, .park, hs, by
      subst heq hp; exact ⟨rfl, rfl, trivial⟩⟩

/-- UNPARK (R83). -/
theorem HostMoves.unpark (hb : Calm b C) :
    HostMoves W (h.doing rest (some (cmdWord 0xA 0)) none) (On b p C)
      (h.doing rest none (some .nothing)) (On b.started p fun _ => True) :=
  .command hb.station (calm_of_start rfl rfl).station (i := .unpark) rfl fun s hs ⟨heq, hp, _⟩ =>
    ⟨toStart s, .unpark, hs, by subst heq hp; exact ⟨rfl, rfl, trivial⟩⟩

end

/-! ### Paths of the host -/

/-- The sequencer has nothing to do until the host gives it something (R174 (2)). -/
def Block.AtRest (b : Block) : Prop :=
  b.act = false ∨ (b.phase = Phase.start ∧ b.inq = []) ∨ b.phase = Phase.parked

/-- A station at which the turns of others, where `mixed` lets there be any, find the sequencer at rest (R174). -/
structure Pause (mixed : Prop) (I : View → Prop) : Prop where
  station : Station Any I
  rest    : mixed → ∀ s : State, I s.view → atRest s = true

/-- So many turns of the host, each from a pause to a pause. -/
inductive HostPath (mixed : Prop) : Nat → HostState → (View → Prop) → HostState → (View → Prop) → Prop
  | here {h : HostState} {I : View → Prop} (pause : Pause mixed I) : HostPath mixed 0 h I h I
  | move {n : Nat} {h h₁ h₂ : HostState} {I I₁ I₂ : View → Prop} (pause : Pause mixed I) (moves : HostMoves Any h I h₁ I₁)
      (tail : HostPath mixed n h₁ I₁ h₂ I₂) : HostPath mixed (n + 1) h I h₂ I₂

section
variable {mixed : Prop} {m n : Nat} {h h₁ h₂ : HostState} {I I₁ I₂ : View → Prop}

theorem HostPath.pause (path : HostPath mixed n h I h₁ I₁) : Pause mixed I := by cases path <;> assumption

theorem HostPath.trans (path : HostPath mixed m h I h₁ I₁) (rest : HostPath mixed n h₁ I₁ h₂ I₂) :
    HostPath mixed (m + n) h I h₂ I₂ := by
  induction path with
  | here => rwa [Nat.zero_add]
  | move pause moves _ ih => rw [Nat.succ_add]; exact .move pause moves (ih rest)

theorem HostPath.one (pause : Pause mixed I) (moves : HostMoves Any h I h₁ I₁) (pause₁ : Pause mixed I₁) :
    HostPath mixed 1 h I h₁ I₁ := .move pause moves (.here pause₁)

/-- A turn of a second context with nothing to issue leaves the host and the view (R127). -/
theorem step_of_foreign {s : State} {W : Env → Prop} (hI : Station W I) (hs : I s.view) (hW : W s.env)
    (none : s.host.foreign = []) (turn : s.env.turn = .foreign) : ∃ t, step s = .next t ∧ t.host = s.host ∧ I t.view := by
  obtain ⟨u, hu⟩ : ∃ u, decodePhase s.block.phase = .ok u := decodePhase_of_lt (hI.legal _ hs)
  have idle : foreignTurn s = .next s := by simp only [foreignTurn, none, hold]
  exact ⟨settle s s, by simp only [step, hu, turn, idle, settled], settle_host _ _, settle_view hI.quiet hW hs⟩

/-- A turn of another agent at rest leaves the host and the view (R90, R127). -/
theorem step_of_idle {s : State} {W : Env → Prop} (hI : Station W I) (hs : I s.view) (hW : W s.env) (rest : atRest s = true)
    (none : s.host.foreign = []) (turn : s.env.turn ≠ .host) : ∃ t, step s = .next t ∧ t.host = s.host ∧ I t.view := by
  cases ht : s.env.turn with
  | host => exact absurd ht turn
  | foreign => exact step_of_foreign hI hs hW none ht
  | sequencer =>
    obtain ⟨u, hu⟩ : ∃ u, decodePhase s.block.phase = .ok u := decodePhase_of_lt (hI.legal _ hs)
    obtain ⟨-, disabled⟩ := disabledMicroStepWaits
    have waits : exec u s = .next s := (effect_of_disabled (disabled s rest) hu).exec_eq
    exact ⟨settle s s, by rw [step_of_microStep hu ht, waits, settled], settle_host _ _, settle_view hI.quiet hW hs⟩

/-- A path is run by the host alone, and, where `mixed` lets them, with turns of others between. -/
theorem HostPath.runs {es : List Env} {s : State} (path : HostPath mixed n h I h₁ I₁) (hh : s.host = h) (hs : I s.view)
    (hn : (turnsOf .host es).length = n) (hes : hostOnly es ∨ mixed ∧ s.host.foreign = []) :
    ∃ t, run es s = .next t ∧ t.host = h₁ ∧ I₁ t.view := by
  induction es generalizing s n h I with
  | nil =>
    obtain rfl : 0 = n := hn
    cases path
    exact ⟨s, rfl, hh, hs⟩
  | cons e es ih =>
    by_cases turn : e.turn = .host
    · rw [turnsOf_cons_self turn, List.length_cons] at hn
      subst hn
      cases path with
      | move pause moves tail =>
        obtain ⟨t, hst, ht, hIt⟩ := moves { s with env := e } turn trivial hh hs
        rw [run_cons hst]
        refine ih tail ht hIt rfl (hes.imp (fun only x hx => only x (.tail _ hx)) fun ⟨hm, hf⟩ => ⟨hm, ?_⟩)
        exact (step_foreign hst).trans hf
    · rw [turnsOf_cons_other turn] at hn
      obtain only | ⟨hm, hf⟩ := hes
      · exact absurd (only e (.head _)) turn
      · obtain ⟨t, hst, ht, hIt⟩ := step_of_idle (s := { s with env := e }) path.pause.station hs trivial
          (path.pause.rest hm _ hs) hf turn
        rw [run_cons hst]
        exact ih path (ht.trans hh) hIt hn (.inr ⟨hm, (step_foreign hst).trans hf⟩)

/-- A family of moves is a path. -/
theorem HostPath.of_moves {H : Nat → HostState} (pause : Pause mixed I)
    (moves : ∀ k, m ≤ k → k < m + n → HostMoves Any (H k) I (H (k + 1)) I) : HostPath mixed n (H m) I (H (m + n)) I := by
  induction n generalizing m with
  | zero => exact .here pause
  | succ n ih =>
    have tail := ih (m := m + 1) fun k hk hk' => moves k (by omega) (by omega)
    rw [Nat.add_right_comm] at tail
    exact .move pause (moves m le_rfl (by omega)) tail

/-- Without turns of others any station is a pause. -/
theorem Station.pause (hI : Station Any I) : Pause False I := ⟨hI, False.elim⟩

/-- A command of a line: it is presented, then executed. -/
theorem HostPath.command {l : Line} {c : Cmd} {w : CmdWord} {rest : List SeqStep} {r r' : Option Response}
    (hl : h.line = some l) (hI : Pause mixed I) (hw : commandWord h c = some w)
    (moves : HostMoves Any (h.doing rest (some w) none) I (h₁.doing rest none r') I₁) (hI₁ : Pause mixed I₁) :
    HostPath mixed 2 (h.doing (.issue c :: rest) none r) I (h₁.doing rest none r') I₁ :=
  .move hI (.issue hl hI.station hw) (.one hI moves hI₁)

end

/-- A host alone runs as many turns as the schedule has. -/
theorem turnsOf_hostOnly {es : List Env} (h : hostOnly es) : turnsOf .host es = es :=
  List.filter_eq_self.2 fun e he => by simp [h e he]

/-- A path under a host that alone moves. -/
theorem HostPath.runs_alone {n : Nat} {h h₁ : HostState} {I I₁ : View → Prop} {es : List Env} {s : State}
    (path : HostPath False n h I h₁ I₁) (hh : s.host = h) (hs : I s.view) (only : hostOnly es) (hn : es.length = n) :
    ∃ t, run es s = .next t ∧ t.host = h₁ ∧ I₁ t.view :=
  path.runs hh hs ((turnsOf_hostOnly only).symm ▸ hn) (.inl only)

end Sys2Proof.Machine
end

section
/-! What every line is launched under, and the lines of one command: power and mode (spec/43_sequences.md R123 to R126). -/

namespace Sys2Proof.Machine

/-- The premises every line is launched under (log 11). -/
structure Launch (s : State) (l : Line) (rest : List Line) : Prop where
  legal : s.block.phase.toNat < 6
  port  : s.host.port = none
  line  : s.host.line = none
  prog  : s.host.prog = l :: rest

section
variable {s : State} {es : List Env} {l : Line} {rest : List Line}

theorem calm_of_any {b : Block} (legal : b.phase.toNat < 6) : Calm b fun _ => True := ⟨legal, fun _ _ _ => trivial⟩

theorem Launch.calm (hs : Launch s l rest) : Calm s.block fun _ => True := calm_of_any hs.legal

/-- The host begins its line. -/
theorem Launch.begin {mixed : Prop} {C : Chip → Prop} (hs : Launch s l rest) (hb : Pause mixed (On s.block s.par C)) :
    HostPath mixed 1 s.host (On s.block s.par C) ((s.host.begun l rest).doing (l.op.steps s.par.pollBudget) none s.host.resp)
      (On s.block s.par C) :=
  .one hb (.begin hs.port hs.line hs.prog hb.station fun _ ⟨_, hp, _⟩ => hp ▸ rfl) hb

/-! ### One command and its response: POWER_DOWN, POWER_UP, SET_MODE, CONSTRUCT (R123 to R126) -/

/-- A line of one command without a value, run from first to last. -/
theorem Launch.run_single {c : Cmd} {w : CmdWord} {h' : HostState} {b' : Block} (hs : Launch s l rest)
    (only : hostOnly es) (hlen : es.length = 5) (hop : l.op.steps s.par.pollBudget = [.issue c, .take])
    (hw : commandWord (s.host.begun l rest) c = some w)
    (moves : HostMoves Any ((s.host.begun l rest).doing [.take] (some w) none) (On s.block s.par fun _ => True)
      (h'.doing [.take] none (some .nothing)) (On b' s.par fun _ => True))
    (hb' : Calm b' fun _ => True) (hl : h'.line = some l) :
    ∃ (t : State) (x : Word), run es s = .next t ∧ t.block = b' ∧
      t.host = (({ h' with result := x }).doing [] none (some .nothing)).ended l := by
  have path := (hs.begin hs.calm.station.pause).trans
    (hop ▸ HostPath.command rfl hs.calm.station.pause hw moves hb'.station.pause)
  obtain ⟨e₁, e₂, e₃, e₄, e₅, rfl⟩ : ∃ e₁ e₂ e₃ e₄ e₅, es = [e₁, e₂, e₃] ++ [e₄, e₅] := by
    match es, hlen with
    | [e₁, e₂, e₃, e₄, e₅], _ => exact ⟨e₁, e₂, e₃, e₄, e₅, rfl⟩
  obtain ⟨t, hrun, ht, hv⟩ := path.runs_alone rfl ⟨rfl, rfl, trivial⟩ (fun e he => only e (List.mem_append_left _ he)) rfl
  have hI (W) : Station W (On b' s.par fun _ => True) := hb'.station
  obtain ⟨t₄, h₄, ht₄, hv₄⟩ := HostMoves.takeNothing (W := (· = e₄)) hl (hI _) (fun e he => congrArg Env.free he)
    { t with env := e₄ } (only e₄ (by simp)) rfl ht hv
  obtain ⟨t₅, h₅, ht₅, hb, -⟩ := HostMoves.endLine (W := Any) (h := { h' with result := e₄.free }) hl (hI _)
    { t₄ with env := e₅ } (only e₅ (by simp)) trivial ht₄ hv₄
  exact ⟨t₅, _, by rw [run_append hrun, run_cons h₄, run_cons h₅, run], hb, ht₅⟩

/-- Settles O53: each line is one command, and the command does to the block what R82, R83 and R106 say. -/
theorem powerAndModeLinesRun : Obligations.PowerAndModeLinesRun := by
  intro s es l rest legal port line prog only hlen
  have hs : Launch s l rest := ⟨legal, port, line, prog⟩
  refine ⟨fun hop => ?_, fun hop => ?_, fun o v hv hop => ?_⟩
  · obtain ⟨t, x, hrun, hb, ht⟩ := hs.run_single only hlen (c := .park) (by rw [hop]; rfl) rfl
      (.park hs.calm) (calm_of_any (by decide : Phase.parked.toNat < 6)) rfl
    exact ⟨t, hrun, by rw [ht]; rfl, by rw [ht]; rfl, by rw [ht]; rfl, hb⟩
  · obtain ⟨t, x, hrun, hb, ht⟩ := hs.run_single only hlen (c := .unpark) (by rw [hop]; rfl) rfl
      (.unpark hs.calm) (calm_of_start rfl rfl) rfl
    exact ⟨t, hrun, by rw [ht]; rfl, by rw [ht]; rfl, by rw [ht]; rfl, hb⟩
  · have hv' : operandValue (s.host.begun l rest) o = some v := by cases o <;> exact hv
    obtain ⟨t, x, hrun, hb, ht⟩ := hs.run_single only hlen (c := .setmode o) (by rcases hop with hop | hop <;> rw [hop] <;> rfl)
      (by rw [commandWord, hv']; rfl) (.setmode hs.calm) (calm_of_any legal) rfl
    exact ⟨t, coerce v, hrun, by rw [ht]; rfl, by rw [ht]; rfl, by rw [ht]; rfl, coerce_toNat v, hb, by rw [ht]; rfl⟩

end

end Sys2Proof.Machine
end

section
/-! READ by the host's turns (spec/43_sequences.md R120): up to its polls, through them while no word is there, from a word to
its sample, and from the last poll to the timeout; with it the lines that a host left alone runs through. -/

namespace Sys2Proof.Machine

/-! ### The polls -/

/-- READ step 5, up to its DEACTIVATE: after `n` turns of the host. -/
def HostState.timingOut (h : HostState) : Nat → HostState
  | 0 => h.doing timeoutSteps none (some (.flag false))
  | _ + 1 => h.doing [.raise .sensorTimeout] (some (cmdWord 0x4 0)) none

/-- READ while its polls find nothing: after `n` turns of the host, with `left` polls to follow the first. -/
def HostState.polling (h : HostState) (rest : List SeqStep) (r : Response) : Nat → Nat → HostState
  | 0, left => h.doing (.issue .poll :: .pollCheck left :: rest) none (some r)
  | 1, left => h.doing (.pollCheck left :: rest) (some (cmdWord 0x5 0)) none
  | 2, left => h.doing (.pollCheck left :: rest) none (some (.flag false))
  | n + 3, 0 => h.timingOut n
  | n + 3, left + 1 => h.polling rest (.flag false) n left

/-- What READ does once a flag has been 1. -/
def readTail : List SeqStep := [.issue .pop, .takeWord, .issue (.decode .popped), .take]

section
variable {W : Env → Prop} {h : HostState} {I : View → Prop} {l : Line} {rest : List SeqStep}

/-- After the last poll DEACTIVATE is presented. -/
theorem polling_deactivates (r : Response) : ∀ left : Nat,
    h.polling rest r (3 * (left + 1) + 1) left = h.doing [.raise .sensorTimeout] (some (cmdWord 0x4 0)) none
  | 0 => rfl
  | left + 1 => polling_deactivates (.flag false) left

/-- While no word is there each turn of the host is the next of its polls. -/
theorem HostMoves.polling (hl : h.line = some l) (hI : Station W I) (empty : ∀ v, I v → v.block.outq = []) (r : Response) :
    ∀ n left : Nat, n < 3 * (left + 1) + 1 → HostMoves W (h.polling rest r n left) I (h.polling rest r (n + 1) left) I
  | 0, _, _ => .issue hl hI (c := .poll) rfl
  | 1, _, _ => .poll hI fun v hv => by simp [outNE, empty v hv]
  | 2, 0, _ => .windowOver hl hI
  | 2, _ + 1, _ => .pollAgain hl hI
  | 3, 0, _ => .issue hl hI (c := .deactivate) rfl
  | _ + 4, 0, hn => absurd hn (by omega)
  | n + 3, left + 1, hn => polling hl hI empty (.flag false) n left (by omega)

theorem turnsToFlag_periodic (n : Nat) : turnsToFlag (n + 7) = turnsToFlag (n + 4) := by
  have hmod : (n + 7 - 4) % 3 = (n + 4 - 4) % 3 := by omega
  simp [turnsToFlag]

/-- Once a word is there, the poll in progress or the next one finds it, if there is one. -/
theorem HostPath.toFlag {mixed : Prop} (hl : h.line = some l) (hI : Pause mixed I) (word : ∀ v, I v → outNE v.block = true)
    (r : Response) : ∀ n left : Nat, n ≤ 3 * left + 1 →
      HostPath mixed (turnsToFlag (n + 4)) (h.polling rest r n left) I (h.doing rest none (some (.flag true))) I
  | 0, _, _ => .trans (.command hl hI (c := .poll) rfl (.poll hI.station word) hI) (.one hI (.flagSeen hl hI.station) hI)
  | 1, _, _ => .move hI (.poll hI.station word) (.one hI (.flagSeen hl hI.station) hI)
  | 2, left + 1, _ => .move hI (.pollAgain hl hI.station) (toFlag hl hI word (.flag false) 0 left (by omega))
  | n + 3, left + 1, hn => turnsToFlag_periodic n ▸ toFlag hl hI word (.flag false) n left (by omega)

end

/-! ### READ where the whole block is known -/

/-- The block once READ has activated the sequencer. -/
def Block.launched (b : Block) : Block := { b.started with act := true, inq := b.inq ++ [count b.mode] }

theorem Calm.pause {mixed : Prop} {b : Block} {p : Params} {C : Chip → Prop} (hb : Calm b C) (rest : mixed → b.AtRest) :
    Pause mixed (On b p C) :=
  ⟨hb.station, fun hm s ⟨heq, _⟩ => atRest_iff.2 (by rw [show s.block = b from heq]; exact rest hm)⟩

section
variable {h : HostState} {b : Block} {p : Params} {C C' : Chip → Prop} {l : Line} {rest : List SeqStep} {r : Option Response}
variable {mixed : Prop}

/-- READ steps 1 to 3 under a host that alone moves. -/
theorem HostPath.launch {pb : Nat} (hl : h.line = some l) (hb : Calm b C) (hC : ∀ c, C c → C' (c.released b))
    (room : b.inq.length < p.inqDepth) (copy : h.modeCopy = b.mode) :
    HostPath False 6 (h.doing (readSteps pb ++ rest) none r) (On b p C)
      (h.polling (readTail ++ rest) .nothing 0 (pb - 1)) (On b.launched p C') := by
  have started : Station Any (On b.started p C') := (calm_of_start rfl rfl).station
  have pushed : Station Any (On { b.started with inq := b.inq ++ [count b.mode] } p C') := (calm_of_start rfl rfl).station
  have launched : Station Any (On b.launched p C') := (calm_of_start rfl rfl).station
  refine (HostPath.command hl hb.station.pause (c := .restart) rfl (.restart hb hC) started.pause).trans (n := 4) ?_
  refine (HostPath.command hl started.pause (c := .push .modeCount) (w := cmdWord 0x2 (count b.mode)) ?_
    (.push (calm_of_start rfl rfl) room) pushed.pause).trans (n := 2) ?_
  · rw [← copy]; rfl
  · exact .command hl pushed.pause (c := .activate) rfl (.activate pushed launched fun v ⟨heq, hp, hc⟩ => ⟨heq ▸ rfl, hp, hc⟩) launched.pause

/-- READ steps 6 and 7, up to DECODE's answer. -/
theorem HostPath.decoded {w : Word} {q : List Word} (hl : h.line = some l) (hb : Calm b C)
    (idle : mixed → b.AtRest) (head : b.outq = w :: q) :
    HostPath mixed 5 (h.doing (readTail ++ rest) none r) (On b p C)
      ({ h with word := w }.doing (.take :: rest) none (some (decodeResponse p.sentinel w b.mode)))
      (On { b with outq := q } p C) := by
  have popped : Calm { b with outq := q } C := ⟨hb.legal, hb.sleeps⟩
  refine (HostPath.command hl (hb.pause idle) (c := .pop) rfl (.pop hb head) (popped.pause idle)).trans (n := 3) ?_
  refine (HostPath.one (popped.pause idle) (.takeWord hl popped.station) (popped.pause idle)).trans (n := 2) ?_
  exact .command (h := { h with word := w }) hl (popped.pause idle) (c := .decode .popped) rfl (.decode popped) (popped.pause idle)

/-- READ steps 6 to 8, of a word that is not the sentinel. -/
theorem HostPath.sampled {w : Word} {q : List Word} (hl : h.line = some l) (hb : Calm b C)
    (idle : mixed → b.AtRest) (head : b.outq = w :: q)
    (hw : w ≠ p.sentinel) :
    HostPath mixed 6 (h.doing (readTail ++ rest) none r) (On b p C)
      ({ h with word := w, result := sampleWord (decodeSample w b.mode) }.doing rest none
        (some (.sample (sampleWord (decodeSample w b.mode))))) (On { b with outq := q } p C) := by
  have popped : Calm { b with outq := q } C := ⟨hb.legal, hb.sleeps⟩
  have decoded := HostPath.decoded (rest := rest) (r := r) (p := p) hl hb idle head
  rw [decodeResponse_of_ne _ hw] at decoded
  exact decoded.trans (.one (popped.pause idle) (.takeSample (h := { h with word := w }) hl popped.station) (popped.pause idle))

/-- READ step 5: the poll window runs out under a host that alone moves. -/
theorem HostPath.timedOut {left : Nat} {r : Response} (hl : h.line = some l) (hb : Calm b fun _ => True) (empty : b.outq = []) :
    HostPath False (3 * (left + 1) + 3) (h.polling rest r 0 left) (On b p fun _ => True)
      ((h.doing [.raise .sensorTimeout] none (some .nothing)).failed .sensorTimeout)
      (On { b with act := false } p fun _ => True) := by
  have still : Calm { b with act := false } fun _ => True := ⟨hb.legal, hb.sleeps⟩
  have polls : HostPath False (3 * (left + 1) + 1) (h.polling rest r 0 left) (On b p fun _ => True) _ _ :=
    .of_moves (H := fun n => h.polling rest r n left) (m := 0) hb.station.pause fun n _ hn =>
      .polling hl hb.station (fun _ ⟨heq, _⟩ => heq ▸ empty) r n left (by omega)
  rw [Nat.zero_add, polling_deactivates] at polls
  refine (polls.trans (.one hb.station.pause (.deactivate hb.station still.station ?_) still.station.pause)).trans
    (.one still.station.pause (.raise hl still.station) still.station.pause)
  exact fun _ ⟨heq, hp, _⟩ => ⟨heq ▸ rfl, hp, trivial⟩

end

/-! ### TEMPERATURE (R122) -/

/-- What follows TEMPERATURE's first READ. -/
def afterFirstRead (pb : Nat) : List SeqStep :=
  readSteps pb ++ .keep :: .issue (.setmode .savedMode) :: (readSteps pb ++ [.giveBack])

/-- The host once TEMPERATURE has set the mode to 2. -/
def HostState.inModeTwo (h : HostState) : HostState := { h with saved := h.modeCopy, modeCopy := .two }

section
variable {b : Block} {p : Params} {C : Chip → Prop}

/-- TEMPERATURE steps 1 and 2. -/
theorem HostPath.modeTwo {h : HostState} {l : Line} {pb : Nat} {r : Option Response} (hl : h.line = some l) (hb : Calm b C) :
    HostPath False 3 (h.doing (temperatureSteps pb) none r) (On b p C)
      (h.inModeTwo.doing (readSteps pb ++ afterFirstRead pb) none (some .nothing)) (On { b with mode := .two } p C) := by
  have coerced : Calm { b with mode := .two } C := ⟨hb.legal, hb.sleeps⟩
  refine (HostPath.one hb.station.pause (.savePrev hl hb.station) hb.station.pause).trans (n := 2) ?_
  exact .command (h := { h with saved := h.modeCopy }) hl hb.station.pause (c := .setmode (.lit 2)) rfl (.setmode hb)
    coerced.station.pause

end

/-! ### The lines of a host left alone -/

/-- A READ line up to its polls. -/
theorem Launch.polls {s : State} {l : Line} {rest : List Line} (hs : Launch s l rest) (hop : l.op = .read)
    (copy : CopyAgrees s) (room : s.block.inq.length < s.par.inqDepth) :
    HostPath False 7 s.host (On s.block s.par fun _ => True)
      ((s.host.begun l rest).polling readTail .nothing 0 (s.par.pollBudget - 1)) (On s.block.launched s.par fun _ => True) :=
  (hop ▸ hs.begin hs.calm.station.pause).trans
    (.launch (h := s.host.begun l rest) (rest := []) rfl hs.calm (fun _ _ => trivial) room copy)

/-- Settles O51: the launch, the polls that find nothing, and READ step 5. -/
theorem starvedReadTimesOut : Obligations.StarvedReadTimesOut := by
  intro s es l rest legal port line prog hop copy polls room empty only hlen
  have hs : Launch s l rest := ⟨legal, port, line, prog⟩
  have path := (hs.polls hop copy room).trans (.timedOut rfl (calm_of_start rfl rfl) empty)
  obtain ⟨t, hrun, ht, hb, -⟩ := path.runs_alone rfl ⟨rfl, rfl, trivial⟩ only (by omega)
  exact ⟨t, hrun, by rw [ht]; rfl, by rw [ht]; rfl, by rw [ht]; rfl, by rw [ht]; rfl, hb⟩

/-- Settles O52: the launch, one poll that finds the word, and READ steps 6 to 8. -/
theorem staleWordReturned : Obligations.StaleWordReturned := by
  intro s es l rest w q legal port line prog hop copy room head hw only hlen
  have hs : Launch s l rest := ⟨legal, port, line, prog⟩
  have launched : Calm s.block.launched fun _ => True := calm_of_start rfl rfl
  have popped : Calm { s.block.launched with outq := q } fun _ => True := calm_of_start rfl rfl
  have found : ∀ v, On s.block.launched s.par (fun _ => True) v → outNE v.block = true := fun v ⟨heq, _⟩ => by
    rw [outNE_eq, heq, show s.block.launched.outq = w :: q from head]
    rfl
  have flag := (hs.polls hop copy room).trans (.toFlag rfl launched.station.pause found .nothing 0 _ (by omega))
  have path := flag.trans ((HostPath.sampled (rest := []) rfl launched False.elim head hw).trans
    (.one popped.station.pause (.endLine rfl popped.station) popped.station.pause))
  obtain ⟨t, hrun, ht, hb, -⟩ := path.runs_alone rfl ⟨rfl, rfl, trivial⟩ only hlen
  refine ⟨t, hrun, ?_, by rw [ht]; rfl, by rw [ht]; rfl, by rw [ht]; rfl, hb⟩
  rw [ht]
  exact sampleWord_decodeSample_toInt w s.block.mode

/-- Settles O58: the mode is set to 2 before the first READ, which then times out. -/
theorem failedTemperatureLeavesModeTwo : Obligations.FailedTemperatureLeavesModeTwo := by
  intro s es l rest legal port line prog hop polls room empty only hlen
  have hs : Launch s l rest := ⟨legal, port, line, prog⟩
  have coerced : Calm { s.block with mode := .two } fun _ => True := calm_of_any legal
  have launch : HostPath False 6 _ (On _ s.par fun _ => True) _ _ :=
    .launch (C' := fun _ => True) (h := (s.host.begun l rest).inModeTwo) (pb := s.par.pollBudget)
      (rest := afterFirstRead s.par.pollBudget) (r := some .nothing) rfl coerced (fun _ _ => trivial) room rfl
  have path := (((hop ▸ hs.begin hs.calm.station.pause).trans (.modeTwo rfl hs.calm)).trans launch).trans
    (.timedOut rfl (calm_of_start rfl rfl) empty)
  obtain ⟨t, hrun, ht, hb, -⟩ := path.runs_alone rfl ⟨rfl, rfl, trivial⟩ only (by omega)
  exact ⟨t, hrun, by rw [ht]; rfl, by rw [ht]; rfl, by rw [ht]; rfl, congrArg Block.mode hb, congrArg Block.act hb,
    congrArg Block.inq hb⟩

end Sys2Proof.Machine
end

section
/-! READ with the sequencer at work (spec/43_sequences.md R120, R121, spec/70_reset_and_hazards.md R171): a chain of
micro-steps between which the host goes on with its polls, and the launch that comes before it. -/

namespace Sys2Proof.Machine

/-! ### Schedules -/

section
variable {es as bs : List Env} {e : Env} {n : Nat}

/-- A schedule with more than `n` turns of the host, cut around the one after the first `n`. -/
theorem split_at_host (h : n < (turnsOf .host es).length) :
    ∃ as e bs, es = as ++ e :: bs ∧ e.turn = .host ∧ (turnsOf .host as).length = n := by
  induction es generalizing n with
  | nil => simp [turnsOf] at h
  | cons x es ih =>
    by_cases hx : x.turn = .host
    · rw [turnsOf_cons_self hx, List.length_cons] at h
      cases n with
      | zero => exact ⟨[], x, es, rfl, hx, rfl⟩
      | succ n =>
        obtain ⟨as, e, bs, rfl, he, has⟩ := ih (Nat.lt_of_succ_lt_succ h)
        exact ⟨x :: as, e, bs, rfl, he, by rw [turnsOf_cons_self hx, List.length_cons, has]⟩
    · rw [turnsOf_cons_other hx] at h
      obtain ⟨as, e, bs, rfl, he, has⟩ := ih h
      exact ⟨x :: as, e, bs, rfl, he, by rw [turnsOf_cons_other hx, has]⟩

theorem turnsOnceHostTook_zero (es : List Env) : turnsOnceHostTook 0 es = turnsOf .sequencer es := by
  induction es with
  | nil => rfl
  | cons e es ih =>
    cases he : e.turn with
    | host => rw [turnsOnceHostTook_host he, turnsOf_cons_other (by simp [he]), ih]
    | sequencer => rw [turnsOnceHostTook_sequencer he, turnsOf_cons_self he, ih]
    | foreign => rw [turnsOnceHostTook_foreign he, turnsOf_cons_other (by simp [he]), ih]

/-- From the turn of the host that makes up the number on, every turn of the sequencer counts. -/
theorem turnsOnceHostTook_split (he : e.turn = .host) :
    turnsOnceHostTook ((turnsOf .host as).length + 1) (as ++ e :: bs) = turnsOf .sequencer bs := by
  induction as with
  | nil => rw [List.nil_append, turnsOnceHostTook_host he]; exact turnsOnceHostTook_zero bs
  | cons x as ih =>
    rw [List.cons_append]
    cases hx : x.turn with
    | host => rw [turnsOnceHostTook_host hx, turnsOf_cons_self hx, List.length_cons, Nat.add_sub_cancel, ih]
    | sequencer => rw [turnsOnceHostTook_early hx, turnsOf_cons_other (by simp [hx]), ih]
    | foreign => rw [turnsOnceHostTook_foreign hx, turnsOf_cons_other (by simp [hx]), ih]

/-- Before the host has taken its number no turn of the sequencer counts. -/
theorem turnsOnceHostTook_few (h : (turnsOf .host es).length < n) : turnsOnceHostTook n es = [] := by
  induction es generalizing n with
  | nil => rfl
  | cons x es ih =>
    obtain ⟨n, rfl⟩ : ∃ k, n = k + 1 := ⟨n - 1, by omega⟩
    cases hx : x.turn with
    | host =>
      rw [turnsOf_cons_self hx, List.length_cons] at h
      exact (turnsOnceHostTook_host hx _ _).trans (ih (by omega))
    | sequencer =>
      rw [turnsOf_cons_other (by simp [hx])] at h
      exact (turnsOnceHostTook_early hx _ _).trans (ih h)
    | foreign =>
      rw [turnsOf_cons_other (by simp [hx])] at h
      exact (turnsOnceHostTook_foreign hx _ _).trans (ih h)

theorem turnsOnceHostTook_append_sequencer (he : e.turn = .sequencer) (h : n ≤ (turnsOf .host es).length) :
    turnsOnceHostTook n (es ++ [e]) = turnsOnceHostTook n es ++ [e] := by
  cases n with
  | zero => simp [turnsOnceHostTook_zero, turnsOf, he]
  | succ n =>
    obtain ⟨as, x, bs, rfl, hx, rfl⟩ := split_at_host h
    rw [List.append_assoc, List.cons_append, turnsOnceHostTook_split hx, turnsOnceHostTook_split hx]
    simp [turnsOf, he]

theorem sequencerSees_turns : ∀ {ds : List (Option Bool)} {es : List Env}, sequencerSees ds es → ∀ e ∈ es, e.turn = .sequencer
  | [], [], _ => by simp
  | [], _ :: _, h => h.elim
  | _ :: _, [], h => h.elim
  | _ :: _, _ :: _, ⟨he, _, h⟩ => List.forall_mem_cons.2 ⟨he, sequencerSees_turns h⟩

/-- The last of the levels is the last turn's. -/
theorem sequencerSees_append {ds : List (Option Bool)} {d : Option Bool} (h : sequencerSees (ds ++ [d]) (es ++ [e])) :
    sequencerSees ds es := by
  induction ds generalizing es with
  | nil =>
    have hlen := sequencerSees_length h
    obtain rfl : es = [] := by simpa using hlen
    trivial
  | cons x ds ih =>
    cases es with
    | nil =>
      have hlen := sequencerSees_length h
      simp at hlen
    | cons y es =>
      obtain ⟨hy, hlevel, hrest⟩ := h
      exact ⟨hy, hlevel, ih hrest⟩

end

/-! ### Micro-steps while the host goes on -/

/-- A station of the running sequencer at which the host finds no word: POLL answers 0 and ACTIVATE changes nothing. -/
structure Running (W : Env → Prop) (I : View → Prop) : Prop extends Station W I where
  active : ∀ v, I v → v.block.act = true
  empty  : ∀ v, I v → v.block.outq = []

/-- Micro-steps that see the levels, from station to station. -/
inductive Chain (W : Env → Prop) : List (Option Bool) → (View → Prop) → (View → Prop) → Prop
  | done {I : View → Prop} (running : Running W I) : Chain W [] I I
  | micro {d : Option Bool} {ds : List (Option Bool)} {I J Q : View → Prop} {u : Instr} (running : Running W I)
      (position : ∀ v, I v → decodePhase v.block.phase = .ok u)
      (effect : ∀ s : State, I s.view → (∀ b, d = some b → s.env.data = b) →
        ∃ t, Effect s u t ∧ (s.block.clk = false ∨ t.block.clk = false) ∧ J t.view)
      (tail : Chain W ds J Q) : Chain W (d :: ds) I Q

section
variable {W : Env → Prop} {ds ds' : List (Option Bool)} {I J Q : View → Prop} {s t : State} {u : Instr}

theorem Chain.running (chain : Chain W ds I Q) : Running W I := by cases chain <;> assumption

theorem Chain.trans (chain : Chain W ds I J) (rest : Chain W ds' J Q) : Chain W (ds ++ ds') I Q := by
  induction chain with
  | done => exact rest
  | micro running position effect _ ih => exact .micro running position effect (ih rest)

/-- No micro-step touches the host. -/
theorem Effect.host_of_microStep {p : PhaseCode} (h : Effect s u t) (hu : decodePhase p = .ok u) : t.host = s.host := by
  obtain ⟨-, rfl⟩ | ⟨-, rfl⟩ | ⟨-, rfl⟩ | ⟨-, rfl⟩ | ⟨-, rfl⟩ | ⟨-, rfl⟩ := decodePhase_cases hu <;> cases h <;> rfl

/-- A turn of the sequencer that has the clock low before or after is the micro-step's effect and no more. -/
theorem step_of_microEffect (turn : s.env.turn = .sequencer) (hu : decodePhase s.block.phase = .ok u) (he : Effect s u t)
    (low : s.block.clk = false ∨ t.block.clk = false) : ∃ t', step s = .next t' ∧ t'.host = s.host ∧ t'.view = t.view :=
  ⟨settle s t, by rw [step_of_microStep hu turn, he.exec_eq, settled], by rw [settle_host, he.host_of_microStep hu],
    by simp [State.view, settle_chip_of_low low]⟩

/-- A chain is run while the host goes through its own moves and a second context has nothing to issue. -/
theorem Chain.runs {H : Nat → HostState} {N n : Nat} {es : List Env}
    (moves : ∀ {J : View → Prop} {k : Nat}, Running W J → k < N → HostMoves W (H k) J (H (k + 1)) J)
    (chain : Chain W ds I Q) (hh : s.host = H n) (hs : I s.view)
    (none : ∀ e ∈ es, e.turn = .foreign → s.host.foreign = []) (hN : n + (turnsOf .host es).length ≤ N) (sees : sequencerSees ds (turnsOf .sequencer es))
    (hW : ∀ e ∈ es, e.turn ≠ .sequencer → W e) :
    ∃ t, run es s = .next t ∧ t.host = H (n + (turnsOf .host es).length) ∧ Q t.view := by
  induction es generalizing ds I s n with
  | nil =>
    obtain rfl : ds = [] := List.length_eq_zero_iff.1 (sequencerSees_length sees).symm
    cases chain
    exact ⟨s, rfl, hh, hs⟩
  | cons e es ih =>
    have none' : ∀ {t : State}, step { s with env := e } = .next t → ∀ x ∈ es, x.turn = .foreign → t.host.foreign = [] :=
      fun hst x hx hf => (step_foreign hst).trans (none x (.tail _ hx) hf)
    have hW' : ∀ x ∈ es, x.turn ≠ .sequencer → W x := fun x hx => hW x (.tail _ hx)
    cases turn : e.turn with
    | host =>
      rw [turnsOf_cons_self turn, List.length_cons] at hN ⊢
      rw [turnsOf_cons_other (by simp [turn])] at sees
      obtain ⟨t, hst, ht, hIt⟩ := moves (k := n) chain.running (by omega) { s with env := e } turn
        (hW e (.head _) (by simp [turn])) hh hs
      rw [run_cons hst, show n + ((turnsOf .host es).length + 1) = n + 1 + (turnsOf .host es).length by omega]
      exact ih chain ht hIt (none' hst) (by omega) sees hW'
    | foreign =>
      rw [turnsOf_cons_other (by simp [turn])] at hN ⊢ sees
      obtain ⟨t, hst, ht, hIt⟩ := step_of_foreign (s := { s with env := e }) chain.running.toStation hs
        (hW e (.head _) (by simp [turn])) (none e (.head _) turn) turn
      rw [run_cons hst]
      exact ih chain (ht.trans hh) hIt (none' hst) hN sees hW'
    | sequencer =>
      rw [turnsOf_cons_other (by simp [turn])] at hN ⊢
      rw [turnsOf_cons_self turn] at sees
      cases chain with
      | done => exact sees.elim
      | micro running position effect tail =>
        obtain ⟨-, level, sees⟩ := sees
        obtain ⟨t, he, low, hJ⟩ := effect { s with env := e } hs level
        obtain ⟨t', hst, ht', hv⟩ := step_of_microEffect (s := { s with env := e }) turn (position _ hs) he low
        rw [run_cons hst]
        exact ih tail (ht'.trans hh) (hv ▸ hJ) (none' hst) hN sees hW'

/-- The sequencer alone runs a chain and leaves the host where it is. -/
theorem Chain.runs_alone {es : List Env} (chain : Chain (fun _ => False) ds I Q) (hs : I s.view) (sees : sequencerSees ds es) :
    ∃ t, run es s = .next t ∧ t.host = s.host ∧ Q t.view := by
  have turns := sequencerSees_turns sees
  have own : turnsOf .sequencer es = es := List.filter_eq_self.2 fun e he => by simp [turns e he]
  have others : turnsOf .host es = [] := List.filter_eq_nil_iff.2 fun e he => by simp [turns e he]
  exact chain.runs (H := fun _ => s.host) (N := 0) (n := 0) (fun _ hk => absurd hk (by omega)) rfl hs
    (fun e he hf => by simp [turns e he] at hf) (by simp [others]) (own.symm ▸ sees)
    (fun e he hne => absurd (turns e he) hne)

end

/-! ### The host from its PUSH on -/

/-- READ once its RESTART has been executed. -/
def HostState.restarted (h : HostState) (rest : List SeqStep) (pb : Nat) : HostState :=
  h.doing (.issue (.push .modeCount) :: .issue .activate :: .issue .poll :: .pollCheck (pb - 1) :: rest) none (some .nothing)

/-- READ from the execution of its PUSH on, while it has found nothing: after `n` turns of the host. -/
def HostState.awaiting (h : HostState) (rest : List SeqStep) (pb : Nat) : Nat → HostState
  | 0 => h.doing (.issue .activate :: .issue .poll :: .pollCheck (pb - 1) :: rest) none (some .nothing)
  | 1 => h.doing (.issue .poll :: .pollCheck (pb - 1) :: rest) (some (cmdWord 0x3 0)) none
  | n + 2 => h.polling rest .nothing n (pb - 1)

section
variable {W : Env → Prop} {h : HostState} {I : View → Prop} {l : Line} {rest : List SeqStep} {pb : Nat}

/-- ACTIVATE of an activated sequencer leaves the view. -/
theorem HostMoves.activateAgain (hI : Station W I) (active : ∀ v, I v → v.block.act = true) :
    HostMoves W (h.doing rest (some (cmdWord 0x3 0)) none) I (h.doing rest none (some .nothing)) I :=
  .activate hI hI fun v hv => by
    have hact := active v hv
    obtain ⟨⟨_, _, _, _, _, _, _, _, _⟩, _, _⟩ := v
    cases hact
    exact hv

/-- While the sequencer runs and no word is there, each turn of the host is the next of these. -/
theorem HostMoves.awaiting (hl : h.line = some l) (hI : Running W I) (hpb : 1 ≤ pb) :
    ∀ n : Nat, n < 3 * pb + 3 → HostMoves W (h.awaiting rest pb n) I (h.awaiting rest pb (n + 1)) I
  | 0, _ => .issue hl hI.toStation (c := .activate) rfl
  | 1, _ => .activateAgain hI.toStation hI.active
  | n + 2, _ => .polling hl hI.toStation hI.empty .nothing n (pb - 1) (by omega)

/-- Once a word is there, ACTIVATE is executed if it was not, and a poll finds the word. -/
theorem HostPath.awaitedFlag {mixed : Prop} (hl : h.line = some l) (hI : Pause mixed I)
    (active : ∀ v, I v → v.block.act = true) (word : ∀ v, I v → outNE v.block = true) :
    ∀ n : Nat, n + 2 ≤ 3 * pb + 2 → 
      HostPath mixed (turnsToFlag (n + 2)) (h.awaiting rest pb n) I (h.doing rest none (some (.flag true))) I
  | 0, hn => (HostPath.command hl hI (c := .activate) rfl (.activateAgain hI.station active) hI).trans
      (.toFlag hl hI word .nothing 0 (pb - 1) (by omega))
  | 1, hn => (HostPath.one hI (.activateAgain hI.station active) hI).trans (.toFlag hl hI word .nothing 0 (pb - 1) (by omega))
  | n + 2, hn => .toFlag hl hI word .nothing n (pb - 1) (by omega)

end

/-! ### The launch (R163, R171) -/

section
variable {h : HostState} {b : Block} {p : Params} {C : Chip → Prop} {l : Line} {rest : List SeqStep} {pb : Nat}

/-- From READ's RESTART on the sequencer is at rest, for want of a count or of `ACT`, until a turn of the host gives it the last
it lacks: PUSH's if it was left active, else ACTIVATE's. -/
theorem HostPath.armed (hl : h.line = some l) (empty : b.inq = []) (room : 0 < p.inqDepth) (copy : h.modeCopy = b.mode) :
    ∃ (h₁ : HostState) (I₁ : View → Prop),
      HostPath True ((if b.act then 2 else 4) - 1)
        (h.restarted rest pb) (On b.started p C) h₁ I₁ ∧
      HostMoves Any h₁ I₁ (h.awaiting rest pb ((if b.act then 2 else 4) - 2)) (On b.launched p C) := by
  have started : Calm b.started C := calm_of_start rfl rfl
  have atStart : Pause True (On b.started p C) := started.pause fun _ => .inr (.inl ⟨rfl, empty⟩)
  have push (W : Env → Prop) (seq : List SeqStep) : HostMoves W (h.doing seq (some (cmdWord 0x2 (count b.mode))) none)
      (On b.started p C) (h.doing seq none (some .nothing)) (On { b.started with inq := b.inq ++ [count b.mode] } p C) :=
    .push started (by simpa [Block.started, empty] using room)
  have hcount : commandWord h (.push .modeCount) = some (cmdWord 0x2 (count b.mode)) := by rw [← copy]; rfl
  cases hact : b.act with
  | true =>
    have launched : { b.started with inq := b.inq ++ [count b.mode] } = b.launched := by
      simp [Block.launched, Block.started, hact]
    exact ⟨_, _, .one atStart (.issue hl started.station hcount) atStart, launched ▸ push Any _⟩
  | false =>
    have pushed : Calm { b.started with inq := b.inq ++ [count b.mode] } C := calm_of_start rfl rfl
    have inactive : Pause True (On { b.started with inq := b.inq ++ [count b.mode] } p C) := pushed.pause fun _ => .inl hact
    refine ⟨_, _, (HostPath.command hl atStart hcount (push Any _) inactive).trans (n := 1)
      (.one inactive (.issue hl pushed.station (c := .activate) rfl) inactive), ?_⟩
    exact .activate pushed.station (calm_of_start rfl rfl).station fun v ⟨heq, hp, hc⟩ => ⟨heq ▸ rfl, hp, hc⟩

end

/-- The parameters are within the ranges of R6. -/
theorem wellFormed_bounds {p : Params} (hp : p.wellFormed = true) :
    0 < p.inqDepth ∧ 0 < p.outqDepth ∧ 2 ^ 27 ≤ p.sentinel.toNat ∧ 1 ≤ p.pollBudget := by
  simp only [Params.wellFormed, Bool.and_eq_true, decide_eq_true_eq] at hp
  omega

/-- What READ is launched under when its acquisition is to complete: both queues empty, the parameters in range, the host's copy
right, and a second context without commands (R163, log 13). -/
structure ReadLaunch (s : State) (l : Line) (rest : List Line) : Prop extends Launch s l rest where
  op      : l.op = .read
  foreign : s.host.foreign = []
  copy    : CopyAgrees s
  params  : s.par.wellFormed = true
  inq     : s.block.inq = []
  outq    : s.block.outq = []

section
variable {s : State} {l : Line} {rest : List Line} {C₀ C : Chip → Prop}

/-- READ's RESTART under the host alone, or with other turns that find the sequencer at rest before and after it. -/
theorem ReadLaunch.restarted {es : List Env} (hs : ReadLaunch s l rest) (hb : Calm s.block C₀) (hchip : C₀ s.chip)
    (hC : ∀ c, C₀ c → C (c.released s.block)) (quiet : atRest s = true ∨ hostOnly es)
    (hes : (turnsOf .host es).length = 3) :
    ∃ t, run es s = .next t ∧ On s.block.started s.par C t.view ∧
      t.host = (s.host.begun l rest).restarted readTail s.par.pollBudget := by
  have rests : Pause (atRest s = true) (On s.block s.par C₀) := hb.pause atRest_iff.1
  have started : Pause (atRest s = true) (On s.block.started s.par C) :=
    (calm_of_start rfl rfl : Calm s.block.started C).pause fun _ => .inr (.inl ⟨rfl, hs.inq⟩)
  have path := (hs.op ▸ hs.begin rests).trans (.command rfl rests (c := .restart) rfl (.restart hb hC) started)
  obtain ⟨t, hrun, ht, hv⟩ := path.runs rfl ⟨rfl, rfl, hchip⟩ hes (quiet.symm.imp_right fun rest => ⟨rest, hs.foreign⟩)
  exact ⟨t, hrun, hv, ht⟩

/-- READ from its RESTART on: the sequencer runs its chain as soon as it can, in whatever order the turns fall. -/
theorem ReadLaunch.awaits {W : Env → Prop} {Q : View → Prop} {ds : List (Option Bool)} {es : List Env} {t : State}
    (hs : ReadLaunch s l rest) (ht : t.host = (s.host.begun l rest).restarted readTail s.par.pollBudget)
    (hv : On s.block.started s.par C t.view) (chain : Chain W ds (On s.block.launched s.par C) Q)
    (sees : sequencerSees ds (turnsOnceHostTook (if s.block.act then 2 else 4) es))
    (enough : (if s.block.act then 2 else 4) ≤ (turnsOf .host es).length)
    (few : (turnsOf .host es).length ≤ 3 * s.par.pollBudget + 5) (hW : ∀ e ∈ es, e.turn ≠ .sequencer → W e) :
    ∃ u, run es t = .next u ∧ Q u.view ∧ u.host.foreign = [] ∧
      u.host = (s.host.begun l rest).awaiting readTail s.par.pollBudget ((turnsOf .host es).length - 2) := by
  obtain ⟨hinq, -, -, hpb⟩ := wellFormed_bounds hs.params
  obtain ⟨h₁, I₁, path, armed⟩ := HostPath.armed (h := s.host.begun l rest) (b := s.block) (p := s.par) (C := C) (l := l)
    (rest := readTail) (pb := s.par.pollBudget) rfl hs.inq hinq hs.copy
  generalize hd : (if s.block.act = true then 2 else 4) = d at path armed sees enough
  have two : 2 ≤ d := by rw [← hd]; split <;> omega
  obtain ⟨as, x, bs, rfl, hx, has⟩ := split_at_host (n := d - 1) (es := es) (by omega)
  rw [show d = (turnsOf .host as).length + 1 by omega, turnsOnceHostTook_split hx] at sees
  have hlen : (turnsOf .host (as ++ x :: bs)).length = d + (turnsOf .host bs).length := by
    rw [turnsOf_append, turnsOf_cons_self hx, List.length_append, List.length_cons]
    omega
  have foreign : t.host.foreign = [] := by rw [ht]; exact hs.foreign
  obtain ⟨t₁, hrun₁, ht₁, hv₁⟩ := path.runs ht hv has (.inr ⟨trivial, foreign⟩)
  obtain ⟨t₂, hst, ht₂, hv₂⟩ := armed { t₁ with env := x } hx trivial ht₁ hv₁
  have foreign₂ : t₂.host.foreign = [] := (step_foreign hst).trans ((run_foreign hrun₁).trans foreign)
  obtain ⟨u, hrun, hu, hQ⟩ := chain.runs (H := (s.host.begun l rest).awaiting readTail s.par.pollBudget)
    (N := 3 * s.par.pollBudget + 3) (n := d - 2) (es := bs) (fun running hk => .awaiting rfl running hpb _ hk) ht₂ hv₂
    (fun _ _ _ => foreign₂) (by omega) sees (fun e he => hW e (by simp [he]))
  refine ⟨u, ?_, hQ, (run_foreign hrun).trans foreign₂, ?_⟩
  · rw [run_append hrun₁, run_cons hst, hrun]
  · rw [hu, hlen, show d + (turnsOf .host bs).length - 2 = d - 2 + (turnsOf .host bs).length by omega]

end

end Sys2Proof.Machine
end

section
/-! The acquisitions of READ as chains of micro-steps (spec/41_microprogram.md R91 to R95, R97): the fetch and the ready wait, which
all share; then a train of free samples, a train of a chip that delivers a value, or the sentinel. -/

namespace Sys2Proof.Machine

section
variable {W : Env → Prop} {ds : List (Option Bool)} {Q : View → Prop} {mode : Mode} {par : Params} {s : State}

/-- At EMIT with a word in `R`, the chip in `D`. -/
structure Full (mode : Mode) (par : Params) (R : Word → Prop) (D : Chip → Prop) (v : View) : Prop where
  unmoved : Unmoved mode [] [] par v
  phase   : v.block.phase = Phase.emit
  clk     : v.block.clk = false
  word    : R v.block.sr
  chip    : D v.chip

/-- A station of an acquisition under a low clock is one of a running sequencer. -/
theorem running_of_low {I : View → Prop} (p : PhaseCode) (legal : p.toNat < 6)
    (h : ∀ v, I v → Unmoved mode [] [] par v ∧ v.block.phase = p ∧ v.block.clk = false) : Running W I where
  legal v hv := by obtain ⟨-, hp, -⟩ := h v hv; rwa [hp]
  quiet _ v _ _ high hv := by obtain ⟨-, -, low⟩ := h v hv; simp [low] at high
  active v hv := by obtain ⟨⟨hact, -⟩, -⟩ := h v hv; exact hact
  empty v hv := by obtain ⟨⟨_, _, _, hout, _⟩, -⟩ := h v hv; exact hout

theorem running_full {R : Word → Prop} {D : Chip → Prop} : Running W (Full mode par R D) :=
  running_of_low Phase.emit (by decide) fun _ h => ⟨h.unmoved, h.phase, h.clk⟩

/-! ### The fetch and the ready wait (R91, R92) -/

/-- In WAITRDY with the count of the mode, RDY in `R`, the chip in `C`. -/
structure Awaiting (mode : Mode) (par : Params) (C : Chip → Prop) (R : Budget → Prop) (v : View) : Prop where
  unmoved : Unmoved mode [] [] par v
  chip    : C v.chip
  phase   : v.block.phase = Phase.waitrdy
  clk     : v.block.clk = false
  cnt     : v.block.cnt = count mode
  sr      : v.block.sr = 0
  rdy     : R v.block.rdy

theorem running_awaiting {C : Chip → Prop} {R : Budget → Prop} : Running W (Awaiting mode par C R) :=
  running_of_low Phase.waitrdy (by decide) fun _ h => ⟨h.unmoved, h.phase, h.clk⟩

theorem Awaiting.position {C : Chip → Prop} {R : Budget → Prop} (v : View) (h : Awaiting mode par C R v) :
    decodePhase v.block.phase = .ok .uWaitrdy := by rw [h.phase]; rfl

/-- u.FETCH takes the count and loads the budget. -/
theorem chain_fetch {d : Option Bool} {b : Block} {C : Chip → Prop} {R : Budget → Prop} (hinq : b.inq = []) (hout : b.outq = [])
    (hR : R par.readyBudget) (tail : Chain W ds (Awaiting b.mode par C R) Q) :
    Chain W (d :: ds) (On b.launched par C) Q := by
  have head : b.launched.inq = [count b.mode] := by simp [Block.launched, hinq]
  refine .micro (u := .uFetch) ⟨(calm_of_start rfl rfl).station, fun v ⟨heq, _⟩ => heq ▸ rfl, fun v ⟨heq, _⟩ => heq ▸ hout⟩
    (fun v ⟨heq, _⟩ => heq ▸ rfl) (fun s ⟨heq, hp, hc⟩ _ => ?_) tail
  have heq : s.block = b.launched := heq
  have hp : s.par = par := hp
  have active : s.block.act = true := heq ▸ rfl
  have low : s.block.clk = false := heq ▸ rfl
  have hmode : s.block.mode = b.mode := heq ▸ rfl
  have hout : s.block.outq = [] := heq ▸ hout
  rw [← hp] at hR
  exact ⟨_, .fetch active ((congrArg Block.inq heq).trans head) (countLegal_count _), .inl low,
    ⟨active, hmode, rfl, hout, hp⟩, hc, rfl, low, rfl, rfl, hR⟩

/-- RDY in `R n` stands `n` high samples. -/
def CountsDown (R : Nat → Budget → Prop) : Prop :=
  ∀ n r, R (n + 1) r → (r = .unbounded ∧ R n r) ∨ ∃ q, r = .finite (q + 1) ∧ R n (.finite q)

theorem countsDown_atMost : CountsDown fun n r => (Budget.finite n).atMost r = true := by
  intro n r h
  cases r with
  | unbounded => exact .inl ⟨rfl, rfl⟩
  | finite q =>
    simp only [Budget.atMost, decide_eq_true_eq] at h ⊢
    exact .inr ⟨q - 1, congrArg _ (by omega), by omega⟩

theorem countsDown_finite : CountsDown fun n r => r = .finite n := fun n _ h => .inr ⟨n, h, rfl⟩

theorem countsDown_unbounded : CountsDown fun _ r => r = .unbounded := fun _ _ h => .inl ⟨h, h⟩

/-- High samples count down RDY (R92). -/
theorem chain_high {C : Chip → Prop} {R : Nat → Budget → Prop} (hR : CountsDown R)
    (tail : Chain W ds (Awaiting mode par C (R 0)) Q) :
    ∀ k : Nat, Chain W (List.replicate k (some true) ++ ds) (Awaiting mode par C (R k)) Q
  | 0 => tail
  | k + 1 => .micro (u := .uWaitrdy) running_awaiting Awaiting.position (fun s hs high => by
      have active : s.block.act = true := hs.unmoved.active
      have low : s.block.clk = false := hs.clk
      obtain ⟨hr, hk⟩ | ⟨q, hr, hk⟩ := hR k _ hs.rdy
      · exact ⟨s, .waitOn active (high _ rfl) hr, .inl low, { hs with rdy := hk }⟩
      · exact ⟨_, .waitMore active (high _ rfl) hr, .inl low,
          ⟨hs.unmoved, hs.chip, hs.phase, hs.clk, hs.cnt, hs.sr, hk⟩⟩) (chain_high hR tail k)

/-- The levels of the ready wait and what comes before it. -/
theorem chain_ready {b : Block} {C : Chip → Prop} {k : Nat} (hinq : b.inq = []) (hout : b.outq = [])
    (hk : (Budget.finite k).atMost par.readyBudget = true)
    (tail : Chain W ds (Awaiting b.mode par C fun r => (Budget.finite 0).atMost r = true) Q) :
    Chain W (none :: (List.replicate k (some true) ++ ds)) (On b.launched par C) Q :=
  chain_fetch (R := fun r => (Budget.finite k).atMost r = true) hinq hout hk
    (chain_high (R := fun n r => (Budget.finite n).atMost r = true) countsDown_atMost tail k)

/-! ### A chip that is never ready (R92) -/

/-- The spent budget brings the sentinel to EMIT. -/
theorem chain_giveUp {C : Chip → Prop} :
    Chain W [some true] (Awaiting mode par C (· = .finite 0)) (Full mode par (· = par.sentinel) C) :=
  .micro (u := .uWaitrdy) running_awaiting Awaiting.position (fun s hs high => by
    have hpar : s.par = par := by obtain ⟨_, _, _, _, hp⟩ := hs.unmoved; exact hp
    exact ⟨_, .giveUp hs.unmoved.active (high _ rfl) hs.rdy, .inl hs.clk,
      ⟨hs.unmoved, rfl, hs.clk, congrArg Params.sentinel hpar, hs.chip⟩⟩) (.done running_full)

/-- A finite budget that runs out. -/
theorem chain_sentinel {b : Block} {C : Chip → Prop} {k : Nat} (hinq : b.inq = []) (hout : b.outq = [])
    (hk : par.readyBudget = .finite k) :
    Chain W (none :: List.replicate (k + 1) (some true)) (On b.launched par C) (Full b.mode par (· = par.sentinel) C) := by
  rw [List.replicate_succ']
  exact chain_fetch hinq hout hk (chain_high countsDown_finite chain_giveUp k)

/-- An infinite budget: before the count is taken, or in the ready wait for ever. -/
theorem chain_unbounded {b : Block} {C : Chip → Prop} (hinq : b.inq = []) (hout : b.outq = [])
    (hk : par.readyBudget = .unbounded) (n : Nat) :
    ∃ Q, Chain W (List.replicate n (some true)) (On b.launched par C) Q ∧
      ∀ v, Q v → On b.launched par C v ∨ Awaiting b.mode par C (· = .unbounded) v := by
  cases n with
  | zero =>
    exact ⟨_, .done ⟨(calm_of_start rfl rfl).station, fun _ ⟨heq, _⟩ => heq ▸ rfl, fun _ ⟨heq, _⟩ => heq ▸ hout⟩, fun _ => .inl⟩
  | succ n =>
    have waits := chain_high (W := W) (mode := b.mode) (par := par) (C := C) countsDown_unbounded (.done running_awaiting) n
    rw [List.append_nil] at waits
    exact ⟨_, chain_fetch hinq hout hk waits, fun _ => .inr⟩

/-! ### A train of free samples (R94, R97 (1)) -/

theorem rawOf_lt : ∀ bits : List Bool, rawOf bits < 2 ^ bits.length
  | [] => by decide
  | b :: bits => by
    have ih := rawOf_lt bits
    rw [rawOf, List.length_cons, Nat.pow_succ]
    cases b <;> simp only [Bool.toNat_false, Bool.toNat_true] <;> omega

/-- The word of a train is below `2^27` (R56). -/
theorem rawOf_lt_word {bits : List Bool} (hbits : bits.length = 24 + mode.toNat) : rawOf bits < 2 ^ 27 := by
  refine (rawOf_lt bits).trans_le (Nat.pow_le_pow_right (by decide) ?_)
  rw [hbits]
  cases mode <;> decide

/-- A pulse within a train leaves the samples free. -/
theorem samplesFree_pulse {c : Chip} (v : BitVec 24) (h : samplesFree c) : samplesFree (c.pulse false v) := by
  by_cases asleep : c.asleep = some true
  · rw [Chip.pulse_of_asleep v false asleep]
    exact .inr (.inl rfl)
  · rw [Chip.pulse_of_more v asleep]
    obtain h | h | h := h
    · exact .inl h
    · exact .inr (.inl h)
    · exact absurd h asleep

/-- A chip whose samples are free, and that conforms or not as `conf` says. -/
def Free (conf : Bool) (c : Chip) : Prop := samplesFree c ∧ c.conforms = conf

/-- In a train, at `p` with the clock at `clk`: the samples `bs` of `bits` are still to come, the others are in SR. -/
structure Drawing (mode : Mode) (par : Params) (conf : Bool) (bits : List Bool) (p : PhaseCode) (clk : Bool) (bs : List Bool)
    (v : View) : Prop where
  unmoved : Unmoved mode [] [] par v
  chip    : Free conf v.chip
  phase   : v.block.phase = p
  clk     : v.block.clk = clk
  cnt     : v.block.cnt.toNat = bs.length
  bits    : v.block.sr.toNat * 2 ^ bs.length + rawOf bs = rawOf bits

variable {conf : Bool} {bits bs : List Bool} {b : Bool}

theorem running_drawing_hi : Running W (Drawing mode par conf bits Phase.hi false bs) :=
  running_of_low Phase.hi (by decide) fun _ h => ⟨h.unmoved, h.phase, h.clk⟩

theorem running_drawing_lo : Running W (Drawing mode par conf bits Phase.lo true bs) where
  legal _ h := by rw [h.phase]; decide
  quiet _ _ _ _ _ h := by
    obtain ⟨-, hconf⟩ := h.chip
    exact ⟨h.unmoved, ⟨.inr (.inr rfl), hconf⟩, h.phase, h.clk, h.cnt, h.bits⟩
  active _ h := h.unmoved.active
  empty _ h := by obtain ⟨_, _, _, hout, _⟩ := h.unmoved; exact hout

/-- The sample of a pulse goes under those taken before it. -/
theorem Drawing.shiftIn_bits (hs : Drawing mode par conf bits Phase.lo true (b :: bs) s.view) (hb : s.env.data = b)
    (hbits : bits.length = 24 + mode.toNat) :
    (shiftIn s.block.sr (samplePulse s)).toNat * 2 ^ bs.length + rawOf bs = rawOf bits := by
  obtain ⟨free, -⟩ := hs.chip
  have htaken : s.block.sr.toNat * 2 ^ (bs.length + 1) + (b.toNat * 2 ^ bs.length + rawOf bs) = rawOf bits := hs.bits
  have hraw := rawOf_lt_word hbits
  have hsum : (2 * s.block.sr.toNat + b.toNat) * 2 ^ bs.length + rawOf bs = rawOf bits := by
    rw [← htaken, Nat.pow_succ]
    ring
  have hle : 2 * s.block.sr.toNat + b.toNat ≤ (2 * s.block.sr.toNat + b.toNat) * 2 ^ bs.length :=
    Nat.le_mul_of_pos_right _ (Nat.two_pow_pos _)
  rw [samplePulse_of_samplesFree free, hb, shiftIn_toNat, Nat.mod_eq_of_lt (by omega), hsum]

/-- The low sample starts the train. -/
theorem chain_low {R : Budget → Prop} (hbits : bits.length = 24 + mode.toNat)
    (tail : Chain W ds (Drawing mode par conf bits Phase.hi false bits) Q) :
    Chain W (some false :: ds) (Awaiting mode par (Free conf) R) Q :=
  .micro (u := .uWaitrdy) running_awaiting Awaiting.position (fun s hs level => by
    have hsr : s.block.sr = 0 := hs.sr
    refine ⟨_, .ready hs.unmoved.active (level _ rfl), .inl hs.clk, hs.unmoved, hs.chip, rfl, hs.clk, ?_, ?_⟩
    · rw [hbits, ← count_toNat]
      exact congrArg BitVec.toNat hs.cnt
    · simp [State.view, hsr]) tail

theorem chain_leadingEdge (tail : Chain W ds (Drawing mode par conf bits Phase.lo true bs) Q) :
    Chain W (none :: ds) (Drawing mode par conf bits Phase.hi false bs) Q :=
  .micro (u := .uHi) running_drawing_hi (fun _ h => by rw [h.phase]; rfl) (fun s hs _ =>
    ⟨_, .hi hs.unmoved.active, .inl hs.clk, hs.unmoved, hs.chip, rfl, rfl, hs.cnt, hs.bits⟩) tail

/-- A train takes its samples pulse by pulse. -/
theorem chain_draw (hbits : bits.length = 24 + mode.toNat) : ∀ (b : Bool) (bs : List Bool),
    Chain W ((b :: bs).flatMap fun b => [none, some b]) (Drawing mode par conf bits Phase.hi false (b :: bs))
      (Full mode par (fun w => w.toNat = rawOf bits) fun c => c.conforms = conf)
  | b, [] => chain_leadingEdge <| .micro (u := .uLo) running_drawing_lo (fun _ h => by rw [h.phase]; rfl) (fun s hs level => by
      have last : s.block.cnt = 1 := BitVec.eq_of_toNat_eq hs.cnt
      obtain ⟨-, hconf⟩ := hs.chip
      have word := hs.shiftIn_bits (level _ rfl) hbits
      simp only [List.length_nil, Nat.pow_zero, Nat.mul_one, rawOf, Nat.add_zero] at word
      exact ⟨_, .loLast hs.unmoved.active last, .inr rfl, hs.unmoved, rfl, rfl, word,
        (Chip.pulse_conforms ..).trans hconf⟩) (.done running_full)
  | b, b' :: bs => chain_leadingEdge <| .micro (u := .uLo) running_drawing_lo (fun _ h => by rw [h.phase]; rfl)
      (fun s hs level => by
        have hcnt : s.block.cnt.toNat = bs.length + 2 := hs.cnt
        have more : s.block.cnt ≠ 1 := fun h1 => by simp [h1] at hcnt
        have nonzero : s.block.cnt ≠ 0 := fun h0 => by simp [h0] at hcnt
        obtain ⟨free, hconf⟩ := hs.chip
        refine ⟨_, .lo hs.unmoved.active more, .inr rfl, hs.unmoved,
          ⟨samplesFree_pulse s.env.conv free, (Chip.pulse_conforms ..).trans hconf⟩, rfl, rfl, ?_, hs.shiftIn_bits (level _ rfl) hbits⟩
        simpa [State.view, hcnt] using decrement_toNat nonzero) (chain_draw hbits b' bs)

/-- The acquisition of free samples. -/
theorem chain_samples {b : Block} {k : Nat} (hinq : b.inq = []) (hout : b.outq = [])
    (hk : (Budget.finite k).atMost par.readyBudget = true) (hbits : bits.length = 24 + b.mode.toNat) :
    Chain W (none :: (List.replicate k (some true) ++ some false :: bits.flatMap fun b => [none, some b]))
      (On b.launched par (Free conf)) (Full b.mode par (fun w => w.toNat = rawOf bits) fun c => c.conforms = conf) := by
  refine chain_ready hinq hout hk (chain_low hbits ?_)
  cases bits with
  | nil => rw [List.length_nil] at hbits; omega
  | cons b bs => exact chain_draw hbits b bs

/-! ### A train of a chip that delivers its value (R26, R27, R97 (2)) -/

section
variable {m : Mode} {x : BitVec 24} (wakeful : ∀ e, W e → e.sleeps = false)
include wakeful

theorem running_pulsing_lo {n k : Nat} : Running W (Pulsing mode [] [] par m x Phase.lo true n k) where
  legal _ h := by rw [h.phase]; decide
  quiet e _ hW sleeps _ _ := by simp [wakeful e hW] at sleeps
  active _ h := h.unmoved.active
  empty _ h := by obtain ⟨_, _, _, hout, _⟩ := h.unmoved; exact hout

/-- The pulses of a train but for the sample of the last. -/
theorem chain_pulses : ∀ n k : Nat, Chain W (List.replicate (2 * n + 1) none)
    (Pulsing mode [] [] par m x Phase.hi false (n + 1) k) (Pulsing mode [] [] par m x Phase.lo true 1 (k + n))
  | 0, k => .micro (u := .uHi) (running_of_low Phase.hi (by decide) fun _ h => ⟨h.unmoved, h.phase, h.clk⟩)
      (fun _ h => by rw [h.phase]; rfl) (fun s hs _ => by
        obtain ⟨t, he, -, ht⟩ := hs.hi
        exact ⟨t, he, .inl hs.clk, ht⟩) (.done (running_pulsing_lo wakeful))
  | n + 1, k => .micro (u := .uHi) (running_of_low Phase.hi (by decide) fun _ h => ⟨h.unmoved, h.phase, h.clk⟩)
      (fun _ h => by rw [h.phase]; rfl) (fun s hs _ => by
        obtain ⟨t, he, -, ht⟩ := hs.hi
        exact ⟨t, he, .inl hs.clk, ht⟩) <|
      .micro (u := .uLo) (running_pulsing_lo wakeful) (fun _ h => by rw [h.phase]; rfl) (fun s hs _ => by
        obtain ⟨t, he, low, ht⟩ := hs.lo
        exact ⟨t, he, .inr low, ht⟩) (by
          have tail := chain_pulses n (k + 1)
          rwa [show k + 1 + n = k + (n + 1) by omega] at tail)

/-- The acquisition of a conversion, up to the sample of its last pulse. -/
theorem chain_conversion {b : Block} {k : Nat} (hinq : b.inq = []) (hout : b.outq = [])
    (hk : (Budget.finite k).atMost par.readyBudget = true) :
    Chain W (none :: (List.replicate k (some true) ++ some false :: List.replicate (2 * (23 + b.mode.toNat) + 1) none))
      (On b.launched par (Holds x)) (Pulsing b.mode [] [] par b.mode x Phase.lo true 1 (23 + b.mode.toNat)) := by
  have train := chain_pulses (mode := b.mode) (par := par) (m := b.mode) (x := x) wakeful (23 + b.mode.toNat) 0
  rw [Nat.zero_add, show 23 + b.mode.toNat + 1 = 24 + b.mode.toNat by omega] at train
  refine chain_ready hinq hout hk (.micro (u := .uWaitrdy) running_awaiting Awaiting.position (fun s hs level => ?_) train)
  have waiting : Waiting b.mode [] [] par b.mode x 0 s.view :=
    ⟨hs.unmoved, hs.chip, hs.phase, hs.clk, hs.cnt, hs.sr, hs.rdy⟩
  obtain ⟨t, he, -, ht⟩ := waiting.low (level _ rfl)
  exact ⟨t, he, .inl hs.clk, ht⟩

end

/-- What a train leaves of the chip: the mode selected, and the next conversion. -/
def Converted (m : Mode) (v : BitVec 24) (c : Chip) : Prop := c.mode = some m ∧ c.next = some m ∧ Holds v c

/-- The sample of the last pulse brings the word to EMIT, and the chip has its next conversion. -/
theorem Pulsing.full {m : Mode} {x : BitVec 24} {k : Nat} (hs : Pulsing mode [] [] par m x Phase.lo true 1 k s.view) :
    ∃ t, Effect s .uLo t ∧ t.block.clk = false ∧
      Full mode par (fun w => LeadingBits x (24 + m.toNat) w.toNat) (Converted m s.env.conv) t.view := by
  obtain ⟨t, he, low, hunmoved, hsampled⟩ := hs.last
  have last : s.block.cnt = 1 := BitVec.eq_of_toNat_eq hs.cnt
  have hk : k = 23 + m.toNat := by have := hs.total; omega
  have awake : s.chip.asleep ≠ some true := hs.holds.not_asleep
  have place : s.chip.bit = some (23 + m.toNat) := hs.place.trans (congrArg some hk)
  have hchip := he.chip_of_uLo hs.unmoved.active
  rw [last, decide_eq_true rfl, Chip.pulse_of_count _ awake place] at hchip
  obtain ⟨conforms, -, -⟩ := hs.holds
  refine ⟨t, he, low, hunmoved, hsampled.phase, hsampled.clk, hsampled.raw, ?_⟩
  show Converted m s.env.conv t.chip
  rw [hchip]
  exact ⟨rfl, rfl, conforms, rfl, rfl⟩

/-! ### The word goes into OUTQ (R95) -/

/-- The block as READ's acquisition leaves it, `q` in OUTQ; with nothing there, as READ leaves it (R120, step 8). -/
structure Block.Idle (b : Block) (mode : Mode) (q : List Word) : Prop where
  act   : b.act = true
  phase : b.phase = Phase.start
  clk   : b.clk = false
  inq   : b.inq = []
  outq  : b.outq = q
  mode  : b.mode = mode

section
variable {b : Block} {q : List Word} {C : Chip → Prop}

theorem Block.Idle.atRest (hb : b.Idle mode q) : b.AtRest := .inr (.inl ⟨hb.phase, hb.inq⟩)

theorem Block.Idle.calm (hb : b.Idle mode q) : Calm b C := calm_of_start hb.phase hb.clk

theorem Block.Idle.emptied (hb : b.Idle mode q) : Block.Idle { b with outq := [] } mode [] :=
  ⟨hb.act, hb.phase, hb.clk, hb.inq, rfl, hb.mode⟩

/-- A poll finds the word (R80). -/
theorem Block.Idle.found {w : Word} {p : Params} (hb : b.Idle mode (w :: q)) (v : View) (hv : On b p C v) :
    outNE v.block = true := by
  obtain ⟨heq, -⟩ := hv
  rw [outNE_eq, heq, hb.outq]
  rfl

end

theorem Full.emits {R : Word → Prop} {D : Chip → Prop} (hs : Full mode par R D s.view) (turn : s.env.turn = .sequencer)
    (room : 0 < par.outqDepth) :
    ∃ (t : State) (w : Word), step s = .next t ∧ t.host = s.host ∧ t.par = par ∧ R w ∧ D t.chip ∧ t.block.Idle mode [w] := by
  obtain ⟨⟨hact, hmode, hinq, hout, hpar⟩, hphase, hclk, hword, hchip⟩ := hs
  have hout : s.block.outq = [] := hout
  have hpar : s.par = par := hpar
  have hroom : s.block.outq.length < s.par.outqDepth := by rwa [hout, hpar]
  obtain ⟨t, hst, ht, hv⟩ := step_of_microEffect turn (u := .uEmit)
    (by rw [show s.block.phase = Phase.emit from hphase]; rfl) (.emit hact hroom) (.inl hclk)
  have hb : t.block = { s.block with outq := s.block.outq ++ [s.block.sr], phase := Phase.start } := congrArg View.block hv
  have hc : t.chip = s.chip := congrArg View.chip hv
  have hp : t.par = s.par := congrArg View.par hv
  refine ⟨t, s.block.sr, hst, ht, hp.trans hpar, hword, hc ▸ hchip, ?_⟩
  rw [hb, hout]
  exact ⟨hact, rfl, hclk, hinq, rfl, hmode⟩

end

end Sys2Proof.Machine
end

section
/-! READ under any order of the turns (spec/43_sequences.md R120, R121): from the word that an acquisition emits to the sample or
the failure, and the timeout of a ready wait that never ends. -/

namespace Sys2Proof.Machine

section
variable {s t : State} {l : Line} {rest : List Line} {C₀ C D : Chip → Prop} {R : Word → Prop} {W : Env → Prop}
variable {es₁ es₂ es₃ : List Env} {e : Env} {j : Nat} {ds : List (Option Bool)}

/-- The acquisition brings its word to OUTQ while the host polls. -/
theorem ReadLaunch.word (hs : ReadLaunch s l rest) (hb : Calm s.block C₀) (hchip : C₀ s.chip)
    (hC : ∀ c, C₀ c → C (c.released s.block)) (quiet : atRest s = true ∨ hostOnly es₁)
    (h₁ : (turnsOf .host es₁).length = 3) (chain : Chain W ds (On s.block.launched s.par C) (Full s.block.mode s.par R D))
    (sees : sequencerSees (ds ++ [none]) (turnsOnceHostTook (if s.block.act then 2 else 4) (es₂ ++ [e])))
    (he : e.turn = .sequencer) (h₂ : (turnsOf .host es₂).length = j) (hj : j ≤ 3 * s.par.pollBudget + 2)
    (hW : ∀ x ∈ es₂, x.turn ≠ .sequencer → W x) :
    ∃ (t : State) (w : Word), run (es₁ ++ (es₂ ++ [e])) s = .next t ∧ R w ∧ On t.block s.par D t.view ∧
      t.block.Idle s.block.mode [w] ∧ 2 ≤ j ∧ t.host.foreign = [] ∧
      t.host = (s.host.begun l rest).awaiting readTail s.par.pollBudget (j - 2) := by
  obtain ⟨-, hout, -, -⟩ := wellFormed_bounds hs.params
  have enough : (if s.block.act then 2 else 4) ≤ (turnsOf .host es₂).length := by
    by_contra hfew
    have hlen := sequencerSees_length sees
    rw [turnsOnceHostTook_few (by simpa [turnsOf_append, turnsOf, he] using hfew)] at hlen
    simp at hlen
  rw [turnsOnceHostTook_append_sequencer he enough] at sees
  obtain ⟨t₁, hrun₁, hv₁, ht₁⟩ := hs.restarted hb hchip hC quiet h₁
  obtain ⟨t₂, hrun₂, hv₂, hf₂, ht₂⟩ := hs.awaits ht₁ hv₁ chain (sequencerSees_append sees) enough
    (by omega) hW
  obtain ⟨t, w, hst, ht, hp, hR, hD, hidle⟩ := hv₂.emits (s := { t₂ with env := e }) he hout
  refine ⟨t, w, ?_, hR, ⟨rfl, hp, hD⟩, hidle, ?_, ht ▸ hf₂, by rw [ht, ← h₂]; exact ht₂⟩
  · rw [run_append hrun₁, run_append hrun₂, run_cons hst, run]
  · split at enough <;> omega

/-- From a word in OUTQ to DECODE's answer. -/
theorem HostPath.answered {h : HostState} {b : Block} {p : Params} {mode : Mode} {w : Word} {pb n : Nat} {rest : List SeqStep}
    (hl : h.line = some l) (hb : b.Idle mode [w]) (hn : n ≤ 3 * pb) :
    HostPath True (turnsToFlag (n + 2) + 5) (h.awaiting (readTail ++ rest) pb n) (On b p D)
      ({ h with word := w }.doing (.take :: rest) none (some (decodeResponse p.sentinel w mode)))
      (On { b with outq := [] } p D) := by
  have flag : HostPath True (turnsToFlag (n + 2)) (h.awaiting (readTail ++ rest) pb n) (On b p D) _ _ :=
    .awaitedFlag hl (hb.calm.pause fun _ => hb.atRest) (fun v ⟨heq, _⟩ => heq ▸ hb.act) hb.found n (by omega)
  exact flag.trans (hb.mode ▸ .decoded hl hb.calm (fun _ => hb.atRest) hb.outq)

/-- READ step 8: the word's sample is the value of the line. -/
theorem read_returns {w : Word} (hv : On t.block s.par D t.view)
    (hb : t.block.Idle s.block.mode [w]) (hf : t.host.foreign = [])
    (ht : t.host = (s.host.begun l rest).awaiting readTail s.par.pollBudget (j - 2)) (two : 2 ≤ j)
    (hj : j ≤ 3 * s.par.pollBudget + 2) (h₃ : (turnsOf .host es₃).length = turnsToFlag j + 7) (hw : w ≠ s.par.sentinel) :
    ∃ u : State, run es₃ t = .next u ∧ u.block.Idle s.block.mode [] ∧ D u.chip ∧
      u.host.result.toInt = sampleOf w.toNat s.block.mode ∧ u.host.line = none ∧ u.host.port = none ∧ u.host.prog = rest ∧
      u.host.failure = s.host.failure ∧ ∀ n, l.bind = some n → lookup n u.host.vars = some u.host.result := by
  obtain ⟨n, rfl⟩ : ∃ n, j = n + 2 := ⟨j - 2, by omega⟩
  have done : Pause True (On { t.block with outq := [] } s.par D) := hb.emptied.calm.pause fun _ => hb.emptied.atRest
  have answered := HostPath.answered (D := D) (p := s.par) (h := s.host.begun l rest) (l := l) (rest := []) rfl hb
    (show n ≤ 3 * s.par.pollBudget by omega)
  rw [decodeResponse_of_ne _ hw] at answered
  have path := (answered.trans (.one done (.takeSample rfl done.station) done)).trans
    (.one done (.endLine rfl done.station) done)
  obtain ⟨u, hrun, hu, hub, -, hD⟩ := path.runs ht hv h₃ (.inr ⟨trivial, hf⟩)
  have hub : u.block = { t.block with outq := [] } := hub
  refine ⟨u, hrun, hub ▸ hb.emptied, hD, ?_, by rw [hu]; rfl, by rw [hu]; rfl, by rw [hu]; rfl, by rw [hu]; rfl, fun n hn => ?_⟩
  · rw [hu]
    exact sampleWord_decodeSample_toInt w s.block.mode
  · rw [hu]
    simp [HostState.ended, hn, lookup]

/-- READ of the sentinel: DECODE's failure ends the line. -/
theorem read_raises (hv : On t.block s.par D t.view) (hb : t.block.Idle s.block.mode [s.par.sentinel])
    (hf : t.host.foreign = []) (ht : t.host = (s.host.begun l rest).awaiting readTail s.par.pollBudget (j - 2)) (two : 2 ≤ j)
    (hj : j ≤ 3 * s.par.pollBudget + 2) (h₃ : (turnsOf .host es₃).length = turnsToFlag j + 6) :
    ∃ u : State, run es₃ t = .next u ∧ u.block.Idle s.block.mode [] ∧ u.host.failure = some .sensorNotResponding ∧
      u.host.line = none ∧ u.host.port = none ∧ u.host.prog = if l.handled then rest else [] := by
  obtain ⟨n, rfl⟩ : ∃ n, j = n + 2 := ⟨j - 2, by omega⟩
  have done : Pause True (On { t.block with outq := [] } s.par D) := hb.emptied.calm.pause fun _ => hb.emptied.atRest
  have answered := HostPath.answered (D := D) (p := s.par) (h := s.host.begun l rest) (l := l) (rest := []) rfl hb
    (show n ≤ 3 * s.par.pollBudget by omega)
  rw [decodeResponse_sentinel] at answered
  have path := answered.trans (.one done (.takeFailure rfl done.station) done)
  obtain ⟨u, hrun, hu, hub, -⟩ := path.runs ht hv h₃ (.inr ⟨trivial, hf⟩)
  have hub : u.block = { t.block with outq := [] } := hub
  exact ⟨u, hrun, hub ▸ hb.emptied, by rw [hu]; rfl, by rw [hu]; rfl, by rw [hu]; rfl, by rw [hu]; rfl⟩

/-- A word that a train emits is not the sentinel (R57). -/
theorem ne_sentinel_of_lt {p : Params} {w : Word} (hp : p.wellFormed = true) (hw : w.toNat < 2 ^ 27) : w ≠ p.sentinel := by
  obtain ⟨-, -, hsentinel, -⟩ := wellFormed_bounds hp
  rintro rfl
  omega

/-- RESTART leaves the samples free where they were, where it cuts a train short, and where it lowers the clock. -/
theorem samplesFree_released {c : Chip} {b : Block} (h : samplesFree c ∨ b.clk = true ∨ Phase.acquiring b.phase = true) :
    samplesFree (c.released b) := by
  by_cases hlost : Phase.acquiring b.phase = true ∨ b.clk = true
  · obtain ⟨-, -, hvalue⟩ := Chip.released_unknown (c := c) hlost
    exact .inr (.inl hvalue)
  · obtain ⟨hidle, hlow⟩ := not_or.1 hlost
    rw [Chip.released_of_low (by simpa using hidle) (by simpa using hlow)]
    exact h.resolve_right fun h => hlost h.symm

/-- A chip whose samples RESTART leaves free. -/
def FreeOnceReleased (b : Block) (conf : Bool) (c : Chip) : Prop :=
  (samplesFree c ∨ b.clk = true ∨ Phase.acquiring b.phase = true) ∧ c.conforms = conf

theorem FreeOnceReleased.free {b : Block} {conf : Bool} {c : Chip} (h : FreeOnceReleased b conf c) :
    Free conf (c.released b) := by
  obtain ⟨hfree, hconf⟩ := h
  exact ⟨samplesFree_released hfree, (Chip.released_conforms c b).trans hconf⟩

theorem calm_freeOnceReleased {b : Block} {conf : Bool} (legal : b.phase.toNat < 6) : Calm b (FreeOnceReleased b conf) :=
  ⟨legal, fun high _ ⟨_, hconf⟩ => ⟨.inr (.inl high), hconf⟩⟩

/-- Settles O54: the train of free samples, then the poll that finds its word. -/
theorem readReturnsSample : Obligations.ReadReturnsSample := by
  intro s es₁ es₂ es₃ e l rest j k bits legal port line prog hop foreign copy hpar hinq hout hchip hk hbits quiet h₁ sees he h₂ hj
    h₃
  have hs : ReadLaunch s l rest := ⟨⟨legal, port, line, prog⟩, hop, foreign, copy, hpar, hinq, hout⟩
  obtain ⟨t, w, hrun, hw, hv, hidle, two, hf, ht⟩ := hs.word (W := Any) (calm_freeOnceReleased legal) ⟨hchip, rfl⟩
    (fun _ => FreeOnceReleased.free) quiet h₁
    (chain_samples hinq hout hk hbits) sees he h₂ hj fun _ _ _ => trivial
  have short : w.toNat < 2 ^ 27 := hw ▸ rawOf_lt_word hbits
  obtain ⟨u, hrun', hu, -, hresult, hline, hport, hprog, hfailure, hbind⟩ :=
    read_returns hv hidle hf ht two hj h₃ (ne_sentinel_of_lt hpar short)
  exact ⟨u, (run_append hrun).trans hrun', hw ▸ hresult, hline, hport, hprog, hfailure, hbind, hu.act, hu.phase, hu.clk, hu.inq,
    hu.outq, hu.mode⟩

/-- The levels of an acquisition whose pulses the chip answers, the last sample and u.EMIT apart. -/
theorem freePulseLevels_eq (k m : Nat) : freePulseLevels k (24 + m) =
    (none :: (List.replicate k (some true) ++ some false :: List.replicate (2 * (23 + m) + 1) none) ++ [none]) ++ [none] := by
  rw [freePulseLevels, show 2 * (24 + m) + 1 = 2 * (23 + m) + 1 + 1 + 1 by omega, List.replicate_succ', List.replicate_succ']
  simp

theorem LeadingBits.lt_word {m : Mode} {x : BitVec 24} {w : Nat} (h : LeadingBits x (24 + m.toNat) w) : w < 2 ^ 27 := by
  obtain ⟨g, hg, rfl⟩ := h.raw
  exact raw_lt x.isLt hg

/-- The sample of a payload and its mode bits is the payload, sign-extended (R111). -/
theorem LeadingBits.sampleOf_eq {m : Mode} {x : BitVec 24} {w : Nat} (h : LeadingBits x (24 + m.toNat) w) :
    sampleOf w m = sext24 x := by
  obtain ⟨g, hg, rfl⟩ := h.raw
  rw [sampleOf_raw hg, ← sext24_ofNat x.isLt, BitVec.ofNat_toNat, BitVec.setWidth_eq]

/-- Settles O55: the train of a chip that delivers its value, then the poll that finds the word. -/
theorem readReturnsConversion : Obligations.ReadReturnsConversion := by
  intro s es₁ es₂ es₃ e l rest j k v hphase hclk port line prog hop foreign copy hpar hinq hout hconf hawake hvalue hk h₁ sees he
    hsleeps h₂ hj h₃
  have hs : ReadLaunch s l rest :=
    ⟨⟨by rw [hphase]; decide, port, line, prog⟩, hop, foreign, copy, hpar, hinq, hout⟩
  have released : ∀ c, Holds v c → Holds v (c.released s.block) := fun c hc => by
    rwa [Chip.released_of_low (by rw [hphase]; rfl) hclk]
  have chain : Chain Wakeful _ (On s.block.launched s.par (Holds v))
      (Full s.block.mode s.par (fun w => LeadingBits v (24 + s.block.mode.toNat) w.toNat)
        fun c => c.mode = some s.block.mode ∧ c.next = some s.block.mode) :=
    (chain_conversion (fun _ => id) hinq hout hk).trans <|
      .micro (d := none) (u := .uLo) (running_pulsing_lo fun _ => id) (fun _ h => by rw [h.phase]; rfl) (fun r hr _ => by
        obtain ⟨t, heff, low, hfull⟩ := hr.full
        obtain ⟨hmode, hnext, -⟩ := hfull.chip
        exact ⟨t, heff, .inr low, { hfull with chip := ⟨hmode, hnext⟩ }⟩) (.done running_full)
  rw [freePulseLevels_eq] at sees
  obtain ⟨t, w, hrun, hw, hv, hidle, two, hf, ht⟩ := hs.word (calm_of_start hphase hclk) ⟨hconf, hawake, hvalue⟩ released
    (.inl (atRest_iff.2 (.inr (.inl ⟨hphase, hinq⟩)))) h₁ chain sees he h₂ hj fun x hx _ => hsleeps x hx
  obtain ⟨u, hrun', hu, ⟨hmode, hnext⟩, hresult, hline, hport, hprog, hfailure, hbind⟩ :=
    read_returns hv hidle hf ht two hj h₃ (ne_sentinel_of_lt hpar hw.lt_word)
  exact ⟨u, (run_append hrun).trans hrun', hresult.trans hw.sampleOf_eq, hmode, hnext, hline, hport, hprog, hfailure, hbind, hu.act,
    hu.phase, hu.clk, hu.inq, hu.outq, hu.mode⟩

/-- Settles O56: the sentinel that a spent budget emits, then the poll that finds it and the failure that DECODE answers. -/
theorem readRaisesNotResponding : Obligations.ReadRaisesNotResponding := by
  intro s es₁ es₂ es₃ e l rest j k legal port line prog hop foreign copy hpar hinq hout hk quiet h₁ sees he h₂ hj h₃
  have hs : ReadLaunch s l rest := ⟨⟨legal, port, line, prog⟩, hop, foreign, copy, hpar, hinq, hout⟩
  obtain ⟨t, w, hrun, rfl, hv, hidle, two, hf, ht⟩ := hs.word (W := Any) (calm_of_any legal) trivial
    (fun _ _ => trivial) quiet h₁ (chain_sentinel (C := fun _ => True) hinq hout hk) sees he h₂ hj fun _ _ _ => trivial
  obtain ⟨u, hrun', hu, hfailure, hline, hport, hprog⟩ := read_raises hv hidle hf ht two hj h₃
  exact ⟨u, (run_append hrun).trans hrun', hfailure, hline, hport, hprog, hu.act, hu.phase, hu.clk, hu.inq, hu.outq, hu.mode⟩

/-! ### The timeout of an unready chip -/

/-- The turns that count are turns of the sequencer in the schedule. -/
theorem mem_of_mem_turnsOnceHostTook {x : Env} : ∀ {es : List Env} {n : Nat}, x ∈ turnsOnceHostTook n es →
    x ∈ es ∧ x.turn = .sequencer
  | e :: es, n, h => by
    cases turn : e.turn with
    | host => exact (mem_of_mem_turnsOnceHostTook (turnsOnceHostTook_host turn n es ▸ h)).imp_left (.tail e)
    | foreign => exact (mem_of_mem_turnsOnceHostTook (turnsOnceHostTook_foreign turn n es ▸ h)).imp_left (.tail e)
    | sequencer =>
      cases n with
      | succ n => exact (mem_of_mem_turnsOnceHostTook (turnsOnceHostTook_early turn n es ▸ h)).imp_left (.tail e)
      | zero =>
        obtain rfl | h := List.mem_cons.1 (turnsOnceHostTook_sequencer turn es ▸ h)
        · exact ⟨.head es, turn⟩
        · exact (mem_of_mem_turnsOnceHostTook h).imp_left (.tail e)

theorem sequencerSees_high : ∀ {es : List Env}, (∀ e ∈ es, e.turn = .sequencer ∧ e.data = true) →
    sequencerSees (List.replicate es.length (some true)) es
  | [], _ => trivial
  | e :: es, h => by
    obtain ⟨⟨turn, high⟩, h⟩ := List.forall_mem_cons.1 h
    exact ⟨turn, fun b hb => high.trans (Option.some.inj hb), sequencerSees_high h⟩

/-- DEACTIVATE and the failure, from a block under a low clock. -/
theorem read_timesOut {h : HostState} {b : Block} {p : Params} {es : List Env} {x : Env} (hl : h.line = some l)
    (hv : On b p (fun _ => True) t.view) (legal : b.phase.toNat < 6)
    (ht : t.host = h.doing [.raise .sensorTimeout] (some (cmdWord 0x4 0)) none) (hf : t.host.foreign = [])
    (hx : x.turn = .host) (hes : (turnsOf .host es).length = 1) :
    ∃ u : State, run (x :: es) t = .next u ∧ u.block = { b with act := false } ∧
      u.host = (h.doing [.raise .sensorTimeout] none (some .nothing)).failed .sensorTimeout := by
  have calm : Calm b fun _ => True := calm_of_any legal
  have still : Calm { b with act := false } fun _ => True := calm_of_any legal
  have pause : Pause True (On { b with act := false } p fun _ => True) := still.pause fun _ => .inl rfl
  obtain ⟨u₁, hst, hu₁, hv₁⟩ := HostMoves.deactivate (W := Any) calm.station still.station
    (fun v ⟨heq, hp, _⟩ => ⟨heq ▸ rfl, hp, trivial⟩) { t with env := x } hx trivial ht hv
  obtain ⟨u, hrun, hu, hb, -⟩ := (HostPath.one pause (.raise hl pause.station) pause).runs hu₁ hv₁ hes
    (.inr ⟨trivial, (step_foreign hst).trans hf⟩)
  exact ⟨u, (run_cons hst).trans hrun, hb, hu⟩

/-- The block of a READ whose sequencer has not taken its count, or waits for a chip that is not ready. -/
theorem block_of_unready {b : Block} {p : Params} {R : Budget → Prop} {v : View} (hinq : b.inq = []) (hout : b.outq = [])
    (h : On b.launched p C v ∨ Awaiting b.mode p C R v) :
    v.block.mode = b.mode ∧ v.block.clk = false ∧ v.block.outq = [] ∧ v.block.phase.toNat < 6 ∧
      (v.block.phase = Phase.start ∧ v.block.inq = [count b.mode] ∨ v.block.phase = Phase.waitrdy ∧ v.block.inq = []) := by
  obtain ⟨hb, -⟩ | hw := h
  · rw [hb]
    exact ⟨rfl, rfl, hout, (by decide : Phase.start.toNat < 6), .inl ⟨rfl, by simp [Block.launched, hinq]⟩⟩
  · obtain ⟨_, hmode, hinq', hout', _⟩ := hw.unmoved
    exact ⟨hmode, hw.clk, hout', by rw [hw.phase]; decide, .inr ⟨hw.phase, hinq'⟩⟩

/-- Settles O57: the ready wait goes on through every poll, and DEACTIVATE leaves the block where it is. -/
theorem unreadyReadTimesOut : Obligations.UnreadyReadTimesOut := by
  intro s es₁ es₂ l rest legal port line prog hop foreign copy hpar hinq hout hk quiet h₁ high h₂
  have hs : ReadLaunch s l rest := ⟨⟨legal, port, line, prog⟩, hop, foreign, copy, hpar, hinq, hout⟩
  obtain ⟨-, -, -, hpb⟩ := wellFormed_bounds hpar
  obtain ⟨bs, x, cs, rfl, hx, hbs⟩ := split_at_host (n := 3 * s.par.pollBudget + 5) (es := es₂) (by omega)
  have hcs : (turnsOf .host cs).length = 1 := by
    rw [turnsOf_append, turnsOf_cons_self hx, List.length_append, List.length_cons] at h₂
    omega
  have sees := sequencerSees_high (es := turnsOnceHostTook (if s.block.act then 2 else 4) bs) fun e he => by
    obtain ⟨hmem, turn⟩ := mem_of_mem_turnsOnceHostTook he
    exact ⟨turn, high e (by simp [hmem]) turn⟩
  obtain ⟨Q, chain, hQ⟩ := chain_unbounded (W := Any) (C := fun _ => True) hinq hout hk
    (turnsOnceHostTook (if s.block.act then 2 else 4) bs).length
  obtain ⟨t₁, hrun₁, hv₁, ht₁⟩ := hs.restarted (C := fun _ => True) hs.calm trivial (fun _ _ => trivial) quiet h₁
  obtain ⟨t₂, hrun₂, hv₂, hf₂, ht₂⟩ := hs.awaits ht₁ hv₁ chain sees (by split <;> omega) (by omega) fun _ _ _ => trivial
  rw [hbs, show 3 * s.par.pollBudget + 5 - 2 = 3 * (s.par.pollBudget - 1 + 1) + 1 + 2 by omega, HostState.awaiting,
    polling_deactivates] at ht₂
  obtain ⟨hmode, hclk, hout₂, legal₂, hplace⟩ := block_of_unready hinq hout (hQ _ hv₂)
  obtain ⟨u, hrun, hu, huh⟩ := read_timesOut (h := s.host.begun l rest) (l := l) (p := t₂.par) rfl ⟨rfl, rfl, trivial⟩ legal₂ ht₂
    hf₂ hx hcs
  refine ⟨u, ?_, by rw [huh]; rfl, by rw [huh]; rfl, by rw [huh]; rfl, by rw [huh]; rfl, ?_⟩
  · rw [run_append hrun₁, run_append hrun₂, hrun]
  · rw [hu]
    exact ⟨rfl, hclk, hout₂, hmode, hplace⟩

end

end Sys2Proof.Machine
end

section
/-! TEMPERATURE (spec/43_sequences.md R122) as three READs, each launched and read back by the host alone with the sequencer alone
in between. -/

namespace Sys2Proof.Machine

/-! ### One acquisition by the sequencer alone -/

/-- On the schedule the sequencer acquires, from a chip in `C`, a word in `R`, and leaves the chip in `D`. -/
def Acquired (p : Params) (es : List Env) (mode : Mode) (C : Chip → Prop) (R : Word → Prop) (D : Chip → Prop) : Prop :=
  ∀ (b : Block) (t : State), b.mode = mode → b.inq = [] → b.outq = [] → On b.launched p C t.view →
    ∃ (u : State) (w : Word), run es t = .next u ∧ u.host = t.host ∧ R w ∧ w ≠ p.sentinel ∧ On u.block p D u.view ∧ u.block.Idle mode [w]

section
variable {p : Params} {es : List Env} {mode : Mode} {k n : Nat}

/-- An acquisition of free samples of a chip without the premise (R18). -/
theorem acquired_samples {bits : List Bool} (hp : p.wellFormed = true) (hk : (Budget.finite k).atMost p.readyBudget = true)
    (hbits : bits.length = 24 + mode.toNat) (sees : sequencerSees (acquisitionLevels k bits) es) :
    Acquired p es mode (Free false) (fun w => w.toNat = rawOf bits) (Free false) := by
  rintro b t rfl hinq hout hv
  obtain ⟨-, room, -, -⟩ := wellFormed_bounds hp
  obtain ⟨es, e, rfl⟩ : ∃ es' e, es = es' ++ [e] := by
    have hlen := sequencerSees_length sees
    exact ⟨es.dropLast, _, (List.dropLast_append_getLast (List.ne_nil_of_length_pos (by simp [hlen, acquisitionLevels]))).symm⟩
  have turn := sequencerSees_turns sees e (by simp)
  obtain ⟨t₁, hrun, hh, hfull⟩ := (chain_samples (conf := false) hinq hout hk hbits).runs_alone hv (sequencerSees_append sees)
  obtain ⟨u, w, hst, hu, hpar, hw, hconf, hidle⟩ := hfull.emits (s := { t₁ with env := e }) turn room
  exact ⟨u, w, by rw [run_append hrun, run_cons hst, run], hu.trans hh, hw,
    ne_sentinel_of_lt hp (hw ▸ rawOf_lt_word hbits), ⟨rfl, hpar, .inl hconf, hconf⟩, hidle⟩

/-- An acquisition of a conversion: the word carries it, and the chip has the next. -/
theorem acquired_conversion {lo emit : Env} {x : BitVec 24} (hp : p.wellFormed = true)
    (hk : (Budget.finite k).atMost p.readyBudget = true)
    (sees : sequencerSees (freePulseLevels k (24 + mode.toNat)) (es ++ [lo, emit])) :
    Acquired p (es ++ [lo, emit]) mode (Holds x) (fun w => LeadingBits x (24 + mode.toNat) w.toNat)
      (Converted mode lo.conv) := by
  rintro b t rfl hinq hout hv
  obtain ⟨-, room, -, -⟩ := wellFormed_bounds hp
  have turns := sequencerSees_turns sees
  rw [freePulseLevels_eq, show es ++ [lo, emit] = es ++ [lo] ++ [emit] by simp] at sees
  obtain ⟨t₁, hrun, hh₁, hlast⟩ := (chain_conversion (fun _ => False.elim) hinq hout hk).runs_alone hv
    (sequencerSees_append (sequencerSees_append sees))
  obtain ⟨t₂', he, low, hfull⟩ := Pulsing.full (s := { t₁ with env := lo }) hlast
  obtain ⟨t₂, hst₂, hh₂, hv₂⟩ := step_of_microEffect (s := { t₁ with env := lo }) (turns lo (by simp))
    (by rw [show t₁.block.phase = Phase.lo from hlast.phase]; rfl) he (.inr low)
  rw [← hv₂] at hfull
  obtain ⟨u, w, hst, hu, hpar, hw, hchip, hidle⟩ := hfull.emits (s := { t₂ with env := emit }) (turns emit (by simp))
    room
  exact ⟨u, w, by rw [run_append hrun, run_cons hst₂, run_cons hst, run], hu.trans (hh₂.trans hh₁), hw,
    ne_sentinel_of_lt hp hw.lt_word, ⟨rfl, hpar, hchip⟩, hidle⟩

/-- The turns of such an acquisition, the last two apart. -/
theorem exists_two_last (sees : sequencerSees (freePulseLevels k n) es) : ∃ es' lo emit, es = es' ++ [lo, emit] := by
  have hlen := sequencerSees_length sees
  rw [freePulseLevels_length] at hlen
  obtain ⟨fs, emit, rfl⟩ := (List.eq_nil_or_concat es).resolve_left fun h => by simp [h] at hlen
  obtain ⟨es', lo, rfl⟩ := (List.eq_nil_or_concat fs).resolve_left fun h => by simp [h] at hlen
  exact ⟨es', lo, emit, by simp⟩

/-- More may be known of the chip before an acquisition than it needs. -/
theorem Acquired.of_imp {C C' D : Chip → Prop} {R : Word → Prop} (h : Acquired p es mode C R D) (hC : ∀ c, C' c → C c) :
    Acquired p es mode C' R D := fun b t hmode hinq hout ⟨hb, hp, hc⟩ => h b t hmode hinq hout ⟨hb, hp, hC _ hc⟩

end

/-! ### The READs of TEMPERATURE -/

/-- The host once a READ has its sample. -/
def HostState.withSample (h : HostState) (w : Word) (mode : Mode) : HostState :=
  { h with word := w, result := sampleWord (decodeSample w mode) }

section
variable {h h' : HostState} {b : Block} {p : Params} {C C' D : Chip → Prop} {R : Word → Prop} {mode : Mode} {w : Word} {l : Line}
variable {rest : List SeqStep} {pb n : Nat} {I : View → Prop} {t : State} {hs es : List Env}

/-- One poll that finds the word, and READ steps 6 to 8. -/
theorem HostPath.readBack {left : Nat} (hl : h.line = some l) (hb : b.Idle mode [w]) (hw : w ≠ p.sentinel) :
    HostPath False 9 (h.polling (readTail ++ rest) .nothing 0 left) (On b p D)
      ((h.withSample w mode).doing rest none (some (.sample (sampleWord (decodeSample w mode)))))
      (On { b with outq := [] } p D) := by
  have flag : HostPath False 3 (h.polling (readTail ++ rest) .nothing 0 left) (On b p D) _ _ :=
    .toFlag hl hb.calm.station.pause hb.found .nothing 0 left (by omega)
  obtain rfl := hb.mode
  exact flag.trans (n := 6) (.sampled hl hb.calm False.elim hb.outq hw)

/-- A further READ is launched from the state the last one left. -/
theorem HostPath.relaunch {r : Option Response} (hl : h.line = some l) (hb : b.Idle mode []) (hp : p.wellFormed = true)
    (copy : h.modeCopy = mode) :
    HostPath False 6 (h.doing (readSteps pb ++ rest) none r) (On b p C) (h.polling (readTail ++ rest) .nothing 0 (pb - 1))
      (On b.launched p C) := by
  have room : b.inq.length < p.inqDepth := by
    obtain ⟨hinq, -, -, -⟩ := wellFormed_bounds hp
    rwa [hb.inq, List.length_nil]
  refine .launch hl hb.calm (fun c hc => ?_) room (copy.trans hb.mode.symm)
  rwa [Chip.released_of_low (by rw [hb.phase]; rfl) hb.clk]

/-- READ about to poll, with its word `w` in OUTQ and nothing else in progress. -/
structure Found (h : HostState) (rest : List SeqStep) (left : Nat) (p : Params) (mode : Mode) (C : Chip → Prop) (w : Word)
    (t : State) : Prop where
  host  : t.host = h.polling (readTail ++ rest) .nothing 0 left
  view  : On t.block p C t.view
  block : t.block.Idle mode [w]
  fresh : w ≠ p.sentinel

/-- The host alone to a launch, then the sequencer alone to the word. -/
theorem HostPath.runs_acquired {left : Nat}
    (path : HostPath False n h I (h'.polling (readTail ++ rest) .nothing 0 left) (On b.launched p C))
    (acquired : Acquired p es mode C R D) (hmode : b.mode = mode) (hinq : b.inq = []) (hout : b.outq = []) (hh : t.host = h)
    (hv : I t.view) (only : hostOnly hs) (hn : hs.length = n) :
    ∃ (u : State) (w : Word), run (hs ++ es) t = .next u ∧ R w ∧ Found h' rest left p mode D w u := by
  obtain ⟨t₁, hrun₁, ht₁, hv₁⟩ := path.runs_alone hh hv only hn
  obtain ⟨u, w, hrun, hu, hR, fresh, hon, hidle⟩ := acquired b t₁ hmode hinq hout hv₁
  exact ⟨u, w, (run_append hrun₁).trans hrun, hR, hu.trans ht₁, hon, hidle, fresh⟩

theorem coerce_modeWord (m : Mode) : coerce (modeWord m) = m := by cases m <;> rfl

end

section
variable {s t : State} {l : Line} {rest : List Line} {C₀ C₁ C D : Chip → Prop} {R : Word → Prop}
variable {hs es : List Env} {w : Word} {h : HostState} {p : Params} {pb left : Nat} {mode : Mode}

/-- What TEMPERATURE is launched under when its acquisitions are to complete (R163). -/
structure TemperatureLaunch (s : State) (l : Line) (rest : List Line) : Prop extends Launch s l rest where
  op     : l.op = .temperature
  copy   : CopyAgrees s
  params : s.par.wellFormed = true
  inq    : s.block.inq = []
  outq   : s.block.outq = []

/-- TEMPERATURE up to the word of its first READ. -/
theorem TemperatureLaunch.first (launch : TemperatureLaunch s l rest) (hb : Calm s.block C₀) (hchip : C₀ s.chip)
    (hC : ∀ c, C₀ c → C₁ (c.released s.block)) (acquired : Acquired s.par es .two C₁ R D) (only : hostOnly hs)
    (hn : hs.length = 10) :
    ∃ (u : State) (w : Word), run (hs ++ es) s = .next u ∧ R w ∧
      Found (s.host.begun l rest).inModeTwo (afterFirstRead s.par.pollBudget) (s.par.pollBudget - 1) s.par .two D w u := by
  have room : s.block.inq.length < s.par.inqDepth := by
    obtain ⟨hinq, -, -, -⟩ := wellFormed_bounds launch.params
    rwa [launch.inq, List.length_nil]
  have coerced : Calm { s.block with mode := .two } C₀ := ⟨hb.legal, hb.sleeps⟩
  have path := ((launch.op ▸ launch.begin hb.station.pause).trans (.modeTwo rfl hb)).trans
    (HostPath.launch (C' := C₁) rfl coerced hC room rfl)
  exact path.runs_acquired acquired rfl launch.inq launch.outq rfl ⟨rfl, rfl, hchip⟩ only hn

/-- What follows TEMPERATURE's second READ. -/
def afterSecondRead (pb : Nat) : List SeqStep := .keep :: .issue (.setmode .savedMode) :: (readSteps pb ++ [.giveBack])

/-- From the word of the first READ to that of the second. -/
theorem Found.second (found : Found h (afterFirstRead pb) left p .two C w t) (hp : p.wellFormed = true) (hl : h.line = some l)
    (copy : h.modeCopy = .two) (acquired : Acquired p es .two C R D) (only : hostOnly hs) (hn : hs.length = 15) :
    ∃ (u : State) (w' : Word), run (hs ++ es) t = .next u ∧ R w' ∧
      Found (h.withSample w .two) (afterSecondRead pb) (pb - 1) p .two D w' u := by
  have hb := found.block
  have path := (HostPath.readBack (D := C) (rest := afterFirstRead pb) (left := left) hl hb found.fresh).trans
    (.relaunch (h := h.withSample w .two) hl hb.emptied hp copy)
  exact path.runs_acquired acquired hb.mode hb.inq rfl found.host found.view only hn

/-- The host once the second READ's sample is kept, and once the mode is as TEMPERATURE found it. -/
def HostState.keeping (h : HostState) (w : Word) : HostState :=
  { h.withSample w .two with kept := sampleWord (decodeSample w .two) }

def HostState.restored (h : HostState) (w : Word) : HostState := { h.keeping w with modeCopy := h.saved }

/-- From the word of the second READ to that of the third. -/
theorem Found.third (found : Found h (afterSecondRead pb) left p .two C w t) (hp : p.wellFormed = true) (hl : h.line = some l)
    (acquired : Acquired p es h.saved C R D) (only : hostOnly hs) (hn : hs.length = 18) :
    ∃ (u : State) (w' : Word), run (hs ++ es) t = .next u ∧ R w' ∧
      Found (h.restored w) [.giveBack] (pb - 1) p h.saved D w' u := by
  have hb := found.block
  have calm : Calm { t.block with outq := [] } C := hb.emptied.calm
  have coerced : Calm { t.block with outq := [], mode := h.saved } C := calm_of_start hb.phase hb.clk
  have setmode : HostMoves Any ((h.keeping w).doing (readSteps pb ++ [.giveBack]) (some (cmdWord 0x7 (modeWord h.saved))) none)
      (On { t.block with outq := [] } p C) ((h.restored w).doing (readSteps pb ++ [.giveBack]) none (some .nothing))
      (On { t.block with outq := [], mode := h.saved } p C) := by
    have moves := HostMoves.setmode (W := Any) (h := h.keeping w) (p := p) (rest := readSteps pb ++ [.giveBack])
      (v := modeWord h.saved) calm
    rwa [coerce_modeWord] at moves
  have path := ((HostPath.readBack (left := left) hl hb found.fresh).trans
    (.one calm.station.pause (.keep (h := h.withSample w .two) hl calm.station) calm.station.pause)).trans
    ((HostPath.command (h := h.keeping w) (c := .setmode .savedMode) hl calm.station.pause rfl setmode
      coerced.station.pause).trans
      (.relaunch (h := h.restored w) hl ⟨hb.act, hb.phase, hb.clk, hb.inq, rfl, rfl⟩ hp rfl))
  exact path.runs_acquired acquired rfl hb.inq rfl found.host found.view only hn

/-- From the word of the third READ to the end of the line, whose value is the sample kept. -/
theorem Found.ends (found : Found h [.giveBack] left p mode C w t) (hl : h.line = some l) (only : hostOnly hs)
    (hn : hs.length = 11) :
    ∃ u : State, run hs t = .next u ∧ u.host.result = h.kept ∧ u.host.line = none ∧ u.host.prog = h.prog ∧
      u.host.failure = h.failure ∧ u.block.Idle mode [] ∧ C u.chip := by
  have hb := found.block
  have calm : Calm { t.block with outq := [] } C := hb.emptied.calm
  have path := ((HostPath.readBack (D := C) (rest := [.giveBack]) (left := left) hl hb found.fresh).trans
    (.one calm.station.pause (.giveBack (h := h.withSample w mode) hl calm.station) calm.station.pause)).trans
    (.one calm.station.pause (.endLine (h := { h.withSample w mode with result := h.kept }) hl calm.station) calm.station.pause)
  obtain ⟨u, hrun, hu, hub, -, hD⟩ := path.runs_alone found.host found.view only hn
  have hub : u.block = { t.block with outq := [] } := hub
  exact ⟨u, hrun, by rw [hu]; rfl, by rw [hu]; rfl, by rw [hu]; rfl, by rw [hu]; rfl, hub ▸ hb.emptied, hD⟩

/-- What TEMPERATURE leaves: the sample of `w` in mode 2 as its value, and the block as READ's step 8 leaves it, in `mode`. -/
structure TemperatureDone (s : State) (rest : List Line) (w : Word) (u : State) : Prop where
  result  : u.host.result.toInt = sampleOf w.toNat .two
  line    : u.host.line = none
  prog    : u.host.prog = rest
  failure : u.host.failure = s.host.failure
  block   : u.block.Idle s.block.mode []

/-- TEMPERATURE from the word of its first READ on. -/
theorem TemperatureLaunch.last {C₂ C₃ : Chip → Prop} {R₂ R₃ : Word → Prop} {h₂ q₂ h₃ q₃ h₄ : List Env}
    (launch : TemperatureLaunch s l rest)
    (found : Found (s.host.begun l rest).inModeTwo (afterFirstRead s.par.pollBudget) (s.par.pollBudget - 1) s.par .two C w t)
    (acquired₂ : Acquired s.par q₂ .two C R₂ C₂) (acquired₃ : Acquired s.par q₃ s.block.mode C₂ R₃ C₃)
    (only₂ : hostOnly h₂) (hn₂ : h₂.length = 15) (only₃ : hostOnly h₃) (hn₃ : h₃.length = 18) (only₄ : hostOnly h₄)
    (hn₄ : h₄.length = 11) :
    ∃ (u : State) (w₂ : Word), run (h₂ ++ q₂ ++ (h₃ ++ q₃) ++ h₄) t = .next u ∧ R₂ w₂ ∧ C₃ u.chip ∧
      TemperatureDone s rest w₂ u := by
  have saved : ((s.host.begun l rest).inModeTwo.withSample w .two).saved = s.block.mode := launch.copy
  obtain ⟨t₂, w₂, hrun₂, hR₂, found₂⟩ := found.second launch.params rfl rfl acquired₂ only₂ hn₂
  obtain ⟨t₃, w₃, hrun₃, -, found₃⟩ := found₂.third launch.params rfl (saved.symm ▸ acquired₃) only₃ hn₃
  obtain ⟨u, hrun, hresult, hline, hprog, hfailure, hidle, hchip⟩ := found₃.ends rfl only₄ hn₄
  refine ⟨u, w₂, ?_, hR₂, hchip, ?_, hline, hprog, hfailure, saved ▸ hidle⟩
  · rw [List.append_assoc, run_append hrun₂, run_append hrun₃, hrun]
  · rw [hresult]
    exact sampleWord_decodeSample_toInt w₂ .two

/-- Settles O59: three acquisitions of free samples, the second's sample kept. -/
theorem temperatureReturnsSecondSample : Obligations.TemperatureReturnsSecondSample := by
  intro s h₁ h₂ h₃ h₄ q₁ q₂ q₃ l rest k₁ k₂ k₃ bits₁ bits₂ bits₃ legal port line prog hop copy hpar hinq hout hconf hk₁ hk₂ hk₃
    hbits₁ hbits₂ hbits₃ only₁ hn₁ sees₁ only₂ hn₂ sees₂ only₃ hn₃ sees₃ only₄ hn₄
  have launch : TemperatureLaunch s l rest := ⟨⟨legal, port, line, prog⟩, hop, copy, hpar, hinq, hout⟩
  have calm : Calm s.block fun c => c.conforms = false := ⟨legal, fun _ _ h => h⟩
  have released : ∀ c : Chip, c.conforms = false → Free false (c.released s.block) := fun c h =>
    have hconf := (Chip.released_conforms c s.block).trans h
    ⟨.inl hconf, hconf⟩
  obtain ⟨t, w, hrun, -, found⟩ := launch.first calm hconf released (acquired_samples hpar hk₁ hbits₁ sees₁) only₁ hn₁
  obtain ⟨u, w₂, hrun', hw₂, -, done⟩ := launch.last found (acquired_samples hpar hk₂ hbits₂ sees₂)
    (acquired_samples hpar hk₃ hbits₃ sees₃) only₂ hn₂ only₃ hn₃ only₄ hn₄
  have hb := done.block
  refine ⟨u, ?_, hw₂ ▸ done.result, hb.mode, done.line, done.prog, done.failure, hb.act, hb.phase, hb.clk, hb.inq, hb.outq⟩
  simpa using (run_append hrun).trans hrun'

/-- Settles O60: three acquisitions of conversions, the second that of the conversion the first train left in mode 2. -/
theorem temperatureReturnsModeTwoConversion : Obligations.TemperatureReturnsModeTwoConversion := by
  intro s h₁ h₂ h₃ h₄ q₁ q₂ q₃ lo emit l rest k₁ k₂ k₃ v hphase hclk port line prog hop copy hpar hinq hout hconf hawake hvalue
    hk₁ hk₂ hk₃ only₁ hn₁ sees₁ only₂ hn₂ sees₂ only₃ hn₃ sees₃ only₄ hn₄
  have launch : TemperatureLaunch s l rest :=
    ⟨⟨by rw [hphase]; decide, port, line, prog⟩, hop, copy, hpar, hinq, hout⟩
  have released : ∀ c, Holds v c → Holds v (c.released s.block) := fun c hc => by
    rwa [Chip.released_of_low (by rw [hphase]; rfl) hclk]
  have holds {m : Mode} {x : BitVec 24} : ∀ c, Converted m x c → Holds x c := fun c ⟨_, _, h⟩ => h
  obtain ⟨q₂, lo₂, emit₂, rfl⟩ := exists_two_last sees₂
  obtain ⟨q₃, lo₃, emit₃, rfl⟩ := exists_two_last sees₃
  obtain ⟨t, w, hrun, -, found⟩ := launch.first (calm_of_start hphase hclk) ⟨hconf, hawake, hvalue⟩ released
    (acquired_conversion (mode := .two) hpar hk₁ sees₁) only₁ hn₁
  obtain ⟨u, w₂, hrun', hw₂, ⟨hmode, -⟩, done⟩ := launch.last found ((acquired_conversion (mode := .two) hpar hk₂ sees₂).of_imp holds)
    ((acquired_conversion hpar hk₃ sees₃).of_imp holds) only₂ hn₂ only₃ hn₃ only₄ hn₄
  obtain ⟨-, -, htmode, -, -, -, htvalue⟩ := found.view
  have hb := done.block
  refine ⟨⟨t, hrun, htmode, htvalue⟩, u, ?_, done.result.trans hw₂.sampleOf_eq, hmode, hb.mode, done.line, done.prog,
    done.failure, hb.act, hb.phase, hb.clk, hb.inq, hb.outq⟩
  simpa using (run_append hrun).trans hrun'

end

end Sys2Proof.Machine
end

section
/-! Where a step has no meaning (spec/60_exceptions.md R139), told agent by agent, and what a failure does to the host's line
(R137, R142). -/

namespace Sys2Proof.Machine

variable {s t : State}

/-! ### Stops of an outcome -/

@[simp] theorem safeOutcome_next (t : State) : safeOutcome (.next t) = true := rfl

@[simp] theorem safeOutcome_refused (r : Refusal) : safeOutcome (.refused r) = false := rfl

/-- `settle` neither makes nor lifts a stop. -/
@[simp] theorem safeOutcome_settled (s : State) (r : Result) : safeOutcome (settled s r) = safeOutcome r := by
  cases r <;> rfl

/-- A gated micro-step stops only under an activated sequencer (R90). -/
theorem safeOutcome_whenActive_eq_false {r : Result} :
    safeOutcome (whenActive s r) = false ↔ s.block.act = true ∧ safeOutcome r = false := by
  cases active : s.block.act <;> simp [whenActive, hold, active]

theorem safeOutcome_whenActive_next (t : State) : safeOutcome (whenActive s (.next t)) = true := by
  cases active : s.block.act <;> simp [whenActive, hold, active]

/-! ### An instruction stops in POP and u.FETCH only (R81, R91) -/

theorem safeOutcome_execPop_eq_false : safeOutcome (execPop s) = false ↔ s.block.outq = [] := by
  cases head : s.block.outq <;> simp [execPop, head, qPop]

theorem safeOutcome_execUFetch_eq_false : safeOutcome (execUFetch s) = false ↔
    s.block.act = true ∧ ∃ n q, s.block.inq = n :: q ∧ n ∉ [25, 26, 27] := by
  refine safeOutcome_whenActive_eq_false.trans (and_congr_right fun _ => ?_)
  cases head : s.block.inq with
  | nil => simp [qPop, hold]
  | cons n q =>
    simp only [← countLegal_iff_mem]
    cases legal : countLegal n <;> simp [qPop, legal]

/-- An instruction with an effect goes on. -/
theorem Effect.safeOutcome_exec {i : Instr} (h : Effect s i t) : safeOutcome (exec i s) = true := by
  rw [h.exec_eq]
  rfl

/-- The instructions but POP and u.FETCH go on in every state. -/
theorem safeOutcome_exec_of_ne {i : Instr} (notPop : i ≠ .pop) (notFetch : i ≠ .uFetch) : safeOutcome (exec i s) = true := by
  cases i with
  | pop => exact absurd rfl notPop
  | uFetch => exact absurd rfl notFetch
  | push v =>
    obtain room | full := Nat.lt_or_ge s.block.inq.length s.par.inqDepth
    · exact (Effect.push room).safeOutcome_exec
    · exact (Effect.pushHeld full).safeOutcome_exec
  | uWaitrdy | uHi | uLo => exact safeOutcome_whenActive_next _
  | uEmit =>
    cases active : s.block.act with
    | false => exact (Effect.inactive (by simp) active).safeOutcome_exec
    | true =>
      obtain room | full := Nat.lt_or_ge s.block.outq.length s.par.outqDepth
      · exact (Effect.emit active room).safeOutcome_exec
      · exact (Effect.emitHeld active full).safeOutcome_exec
  | _ => rfl

/-! ### The agents' turns (R48) -/

theorem safeOutcome_hostSeqStep_eq_false {x : SeqStep} {rest : List SeqStep} :
    safeOutcome (hostSeqStep x rest s) = false ↔ ∃ c, x = .issue c ∧ commandWord s.host c = none := by
  cases x with
  | issue c => cases word : commandWord s.host c <;> simp [hostSeqStep, issueCommand, word]
  | _ => simp [hostSeqStep]

/-- Between its commands the host stops only at a command whose operand has no value (log 23). -/
theorem safeOutcome_hostAdvance_eq_false : safeOutcome (hostAdvance s) = false ↔
    s.host.line ≠ none ∧ ∃ c rest, s.host.seq = .issue c :: rest ∧ commandWord s.host c = none := by
  cases line : s.host.line with
  | none => cases prog : s.host.prog <;> simp [hostAdvance, line, prog, hold]
  | some l =>
    cases seq : s.host.seq with
    | nil => simp [hostAdvance, line, seq]
    | cons x rest => simp [hostAdvance_of_seq line seq, safeOutcome_hostSeqStep_eq_false]

theorem safeOutcome_foreignTurn_eq_false : safeOutcome (foreignTurn s) = false ↔ s.host.foreign ≠ [] := by
  cases commands : s.host.foreign <;> simp [foreignTurn, commands, hold]

/-- A command word at the port has no meaning if it is reserved, or a POP with nothing to answer (R63, R81). -/
theorem safeOutcome_hostTurn_eq_false_of_port {w : CmdWord} (port : s.host.port = some w) : safeOutcome (hostTurn s) = false ↔
    (∃ e, decodeCommand w = .error e) ∨ (decodeCommand w = .ok .pop ∧ s.block.outq = []) := by
  cases word : decodeCommand w with
  | error e => simp [hostTurn, port, word]
  | ok i =>
    by_cases isPop : i = .pop
    · subst isPop
      simp [hostTurn, port, word, exec, safeOutcome_execPop_eq_false]
    · have notFetch : i ≠ .uFetch := fun h => by simpa [h] using decodeCommand_command word
      simp [hostTurn, port, word, isPop, safeOutcome_exec_of_ne isPop notFetch]

theorem safeOutcome_hostTurn_of_noPort (port : s.host.port = none) :
    safeOutcome (hostTurn s) = safeOutcome (hostAdvance s) := by
  simp [hostTurn, port]

/-- The sequencer stops only where it fetches a count without a meaning (R91). -/
theorem safeOutcome_microStep_eq_false {u : Instr} (position : decodePhase s.block.phase = .ok u) :
    safeOutcome (exec u s) = false ↔
      s.block.act = true ∧ s.block.phase = Phase.start ∧ ∃ n q, s.block.inq = n :: q ∧ n ∉ [25, 26, 27] := by
  obtain ⟨start, rfl⟩ | other := decodePhase_cases position
  · simp [exec, safeOutcome_execUFetch_eq_false, start]
  · have notStart : s.block.phase ≠ Phase.start := by
      intro start
      simp [start] at other
    have safe : safeOutcome (exec u s) = true := by
      obtain ⟨-, rfl⟩ | ⟨-, rfl⟩ | ⟨-, rfl⟩ | ⟨-, rfl⟩ | ⟨-, rfl⟩ := other
      all_goals exact safeOutcome_exec_of_ne (by simp) (by simp)
    exact iff_of_false (by simp [safe]) fun ⟨_, start, _⟩ => notStart start

/-- Settles O36: the position is decoded first, and then each agent's turn stops where its own lemma says. -/
theorem refusedExactlyWhereNamed : Obligations.RefusedExactlyWhereNamed := by
  intro s
  cases position : decodePhase s.block.phase with
  | error e =>
    refine iff_of_true ?_ (.inl (decodePhase_eq_error.1 position).2)
    rw [step_of_reservedPhase position, safeOutcome_refused]
  | ok u =>
    have legal : ¬ (s.block.phase = 6 ∨ s.block.phase = 7) := fun reserved =>
      nomatch position.symm.trans (decodePhase_eq_error.2 ⟨rfl, reserved⟩)
    rw [or_iff_right legal]
    cases turn : s.env.turn with
    | host =>
      cases port : s.host.port with
      | none => simp [step, position, turn, safeOutcome_hostTurn_of_noPort port, safeOutcome_hostAdvance_eq_false]
      | some w => simp [step, position, turn, safeOutcome_hostTurn_eq_false_of_port port]
    | sequencer => simp [step_of_microStep position turn, safeOutcome_microStep_eq_false position]
    | foreign => simp [step, position, turn, safeOutcome_foreignTurn_eq_false]

/-! ### A failure taken as the answer of a line (R137, R142) -/

/-- The program goes on after a failure only where the line has a handler (R174, log 14). -/
theorem raiseFailure_host_prog {l : Line} (line : s.host.line = some l) (f : Failure) :
    (raiseFailure f s).host.prog = if l.handled then s.host.prog else [] := by
  simp [raiseFailure, line]

/-- Settles O38: taking the answer raises the failure, which drops the line and leaves the block and the chip. -/
theorem failureEndsSequence : Obligations.FailureEndsSequence := by
  intro s l rest _ line seq failed
  refine ⟨raiseFailure .sensorNotResponding s, ?_, rfl, rfl, rfl, rfl, rfl, raiseFailure_host_prog line _⟩
  rw [hostAdvance_of_seq line seq, hostSeqStep, takeResponse_of_failure failed]

end Sys2Proof.Machine
end

section
/-! The clock and the queues (spec/10_state.md R17, spec/20_memory.md R52, spec/41_microprogram.md R99): what each effect does to
the clock and to the lengths, and the reset values that meet all the invariants (spec/10_state.md R29). -/

namespace Sys2Proof

/-! ### The parameters (R6, R57) -/

theorem Config.sentinel_toNat_ge : 2 ^ 27 ≤ Config.sentinel.toNat := by
  unfold Config.sentinel
  split
  · assumption
  · decide

theorem Config.params_wellFormed : Config.params.wellFormed = true := by
  simp only [Params.wellFormed, Bool.and_eq_true, decide_eq_true_eq]
  exact ⟨⟨⟨Nat.succ_pos _, Nat.succ_pos _⟩, Config.sentinel_toNat_ge⟩, Nat.succ_pos _⟩

end Sys2Proof

namespace Sys2Proof.Machine

variable {i : Instr} {s t : State}

/-! ### The clock (R17, R99) -/

/-- From one position of a low clock to another, the clock being left alone. -/
theorem ClockFollowsPhase.of_low {p : PhaseCode} (hs : ClockFollowsPhase s) (position : s.block.phase = p)
    (low : Phase.clockHigh p = false) (kept : t.block.clk = s.block.clk) (low' : Phase.clockHigh t.block.phase = false) :
    ClockFollowsPhase t :=
  calc t.block.clk = Phase.clockHigh s.block.phase := kept.trans hs
    _ = false := position ▸ low
    _ = Phase.clockHigh t.block.phase := low'.symm

/-- An effect that moves the position sets the clock as the new one has it, or goes between positions of a low clock. -/
theorem Effect.keeps_clockFollowsPhase (hpos : AtItsPosition i s) (h : Effect s i t) (hs : ClockFollowsPhase s) :
    ClockFollowsPhase t := by
  cases h with
  | restart | unpark | park | hi | lo | loLast => rfl
  | fetch => exact hs.of_low (hpos Phase.start rfl) rfl rfl rfl
  | ready | giveUp => exact hs.of_low (hpos Phase.waitrdy rfl) rfl rfl rfl
  | emit => exact hs.of_low (hpos Phase.emit rfl) rfl rfl rfl
  | _ => exact hs

/-- Settles O41: every effect keeps clock and position together, and nothing else of a step touches either. -/
theorem clockFollowsPhaseAlways : Obligations.ClockFollowsPhaseAlways := fun _ _ hs h =>
  step_keeps (fun hb _ _ _ hs => by simpa [ClockFollowsPhase, hb] using hs)
    (fun hpos he hs => he.keeps_clockFollowsPhase hpos hs) hs h

theorem Effect.eq_of_rise (h : Effect s i t) (low : s.block.clk = false) (high : t.block.clk = true) :
    i = .uHi ∨ i = .park := by
  cases h with
  | hi => exact .inl rfl
  | park => exact .inr rfl
  | restart | unpark | lo | loLast => exact nomatch high
  | _ => exact nomatch low.symm.trans high

theorem Effect.eq_of_fall (h : Effect s i t) (high : s.block.clk = true) (low : t.block.clk = false) :
    i = .uLo ∨ i = .restart ∨ i = .unpark := by
  cases h with
  | lo | loLast => exact .inl rfl
  | restart => exact .inr (.inl rfl)
  | unpark => exact .inr (.inr rfl)
  | hi | park => exact nomatch low
  | _ => exact nomatch low.symm.trans high

/-- Settles O32: the effects that set the clock and those that clear it. -/
theorem clockEdgesOnlyWhereNamed : Obligations.ClockEdgesOnlyWhereNamed := fun _ _ _ h =>
  ⟨(effect_of_exec h).eq_of_rise, (effect_of_exec h).eq_of_fall⟩

/-! ### The depths of the queues (R52) -/

/-- A queue grows only where it has room, and else it loses its head. -/
theorem Effect.keeps_queuesWithinDepth (h : Effect s i t) (hs : QueuesWithinDepth s) : QueuesWithinDepth t := by
  obtain ⟨hin, hout⟩ := hs
  cases h with
  | push room => exact ⟨qPush_length_le (qPush_eq_some.2 ⟨room, rfl⟩), hout⟩
  | emit _ room => exact ⟨hin, qPush_length_le (qPush_eq_some.2 ⟨room, rfl⟩)⟩
  | fetch _ head => exact ⟨qPop_length_le (qPop_eq_some.2 head) hin, hout⟩
  | pop head => exact ⟨hin, qPop_length_le (qPop_eq_some.2 head) hout⟩
  | _ => exact ⟨hin, hout⟩

/-- Settles O42: every effect keeps the depths, and nothing else of a step touches the queues. -/
theorem queuesWithinDepthAlways : Obligations.QueuesWithinDepthAlways := fun _ _ hs h =>
  step_keeps (fun hb hp _ _ hs => by simpa [QueuesWithinDepth, hb, hp] using hs)
    (fun _ he hs => he.keeps_queuesWithinDepth hs) hs h

/-! ### Reset (R29, R160) -/

/-- After reset there is room in `INQ`, since its depth is at least 1 (R6). -/
theorem inFull_reset : inFull State.reset.par State.reset.block = false :=
  decide_eq_false (Nat.succ_ne_zero _).symm

/-- Settles O7: the reset values are those of `Block.reset` and `Chip.unknown`. -/
theorem resetValues : Obligations.ResetValues :=
  ⟨rfl, rfl, rfl, rfl, rfl, rfl, rfl, rfl, rfl, rfl, inFull_reset, ⟨rfl, rfl, rfl, rfl, rfl⟩, fun _ => ⟨rfl, rfl, rfl, rfl⟩⟩

/-- Settles O8: in START with the clock low, the queues empty, RDY at 0 and the chip's place unknown every invariant holds. -/
theorem resetMeetsInvariants : Obligations.ResetMeetsInvariants := by
  refine ⟨Config.params_wellFormed, rfl, ⟨Nat.zero_le _, Nat.zero_le _⟩, ⟨trainWithinBounds_of_idle (.inl rfl), ?_⟩,
    Budget.zero_atMost _, rfl, ?_, ?_, ?_⟩
  · exact fun w hw => nomatch hw
  · exact fun waiting => nomatch waiting
  · exact fun train => nomatch train
  · exact fun k place => nomatch place

end Sys2Proof.Machine
end

section
/-! Turns that leave the block and the host where they are (spec/20_memory.md R51, spec/70_reset_and_hazards.md R174): a sequencer
with nothing to do, and a host that is held in a PUSH or has ended. -/

namespace Sys2Proof.Machine

variable {s t : State}

/-- A step changes nothing but what `settle` does where no micro-step is enabled and the host's turn holds, too, whether or
not it has a command at the port. -/
theorem step_of_all_waiting (disabled : microEnabled s = false)
    (command : ∀ w i, s.host.port = some w → decodeCommand w = .ok i → Effect s i s)
    (between : s.host.port = none → hostAdvance s = .next s) (h : step s = .next t) : t = settle s s := by
  obtain ⟨t', rfl, h'⟩ := step_cases h
  suffices t' = s by rw [this]
  obtain ⟨w, i, _, port, word, he⟩ | ⟨u, _, position, he⟩ | ⟨_, port, ha⟩ | ⟨_, _, rfl⟩ := h'
  · exact (command w i port word).eq_of_exec he
  · exact (effect_of_disabled disabled position).eq_of_exec he
  · exact Host.Outcome.next.inj (ha.symm.trans (between port))
  · rfl

/-! ### The end of a run (R174) -/

theorem hostDone_iff : hostDone s = true ↔ s.host.port = none ∧ s.host.line = none ∧ s.host.prog = [] := by
  simp [hostDone, and_assoc]

/-- A host that has ended has nothing to do between its commands. -/
theorem hostAdvance_of_ended (line : s.host.line = none) (prog : s.host.prog = []) : hostAdvance s = .next s := by
  simp only [hostAdvance, line, prog, hold]

/-- Whether a state is final is read off its block and host. -/
theorem final_settle (s : State) : final (settle s s) = final s := by simp [final, hostDone, atRest]

/-- Settles O37: at rest no micro-step is enabled, and a host that has ended does nothing. -/
theorem finalStatesStayFinal : Obligations.FinalStatesStayFinal := by
  intro s t final h
  obtain ⟨done, rest⟩ := Bool.and_eq_true_iff.1 final
  obtain ⟨port, line, prog⟩ := hostDone_iff.1 done
  obtain ⟨-, disabled⟩ := disabledMicroStepWaits
  obtain rfl := step_of_all_waiting (disabled s rest) (fun w i hw => nomatch port.symm.trans hw)
    (fun _ => hostAdvance_of_ended line prog) h
  exact ⟨(final_settle s).trans final, settle_block s s, settle_host s s⟩

/-! ### A host held in a PUSH (R51, U11) -/

theorem hostHung_iff : hostHung s = true ↔ (∃ w, s.host.port = some w ∧ opOf w = 0x2) ∧
    s.block.inq.length = s.par.inqDepth ∧ (s.block.act = false ∨ s.block.phase = Phase.parked) := by
  cases port : s.host.port <;> simp [hostHung, inFull, port, and_assoc]

theorem hostHung_settle (s : State) : hostHung (settle s s) = hostHung s := by simp [hostHung]

/-- The operation 0x2 is PUSH (R61). -/
theorem decodeCommand_of_op_push {w : CmdWord} (op : opOf w = 0x2) : decodeCommand w = .ok (.push (argOf w)) := by
  simp [decodeCommand, op]

/-- Settles O34: the PUSH finds INQ full, and no u.FETCH can make room, since the sequencer is at rest. -/
theorem hungHostStaysHung : Obligations.HungHostStaysHung := by
  intro s t hung h
  obtain ⟨⟨w, port, op⟩, full, waits⟩ := hostHung_iff.1 hung
  have rest : atRest s = true := atRest_iff.2 (waits.imp_right .inr)
  obtain ⟨-, disabled⟩ := disabledMicroStepWaits
  have held : ∀ w' i, s.host.port = some w' → decodeCommand w' = .ok i → Effect s i s := by
    intro w' i hw' word
    obtain rfl : w = w' := Option.some.inj (port.symm.trans hw')
    obtain rfl : .push (argOf w) = i := Except.ok.inj ((decodeCommand_of_op_push op).symm.trans word)
    exact .pushHeld full.ge
  obtain rfl := step_of_all_waiting (disabled s rest) held (fun hnone => nomatch port.symm.trans hnone) h
  exact ⟨(hostHung_settle s).trans hung, settle_block s s⟩

end Sys2Proof.Machine
end

section
/-! `encode` of samples (spec/42_decode.md R112): over the closed range the payload has 24 bits, so `decode` undoes it. -/

namespace Sys2Proof.Machine

/-- The 24-bit payload of a sample (R112). -/
def payload (x : Int) : Nat := (if 0 ≤ x then x else x + 2 ^ 24).toNat

variable {x : Int} {m : Mode} {g : Nat}

theorem encodeSample_eq (x : Int) (m : Mode) (g : Nat) :
    encodeSample x m g = BitVec.ofNat 32 (payload x * 2 ^ m.toNat + g) := rfl

/-- On the closed range the payload is below `2^24`, and its sign extension is the sample. -/
theorem payload_spec (least : -(2 ^ 23) ≤ x) (most : x ≤ 2 ^ 23 - 1) :
    payload x < 2 ^ 24 ∧ (if 2 ^ 23 - 1 < payload x then (payload x : Int) - 2 ^ 24 else (payload x : Int)) = x := by
  unfold payload
  by_cases nonneg : 0 ≤ x
  · rw [if_pos nonneg, if_neg (by omega)]
    omega
  · rw [if_neg nonneg, if_pos (by omega)]
    omega

/-- A raw word in a mode has 24 bits and the mode bits. -/
theorem raw_lt_of_mode {r : Nat} (hr : r < 2 ^ 24) (hg : g < 2 ^ m.toNat) : r * 2 ^ m.toNat + g < 2 ^ (24 + m.toNat) :=
  calc r * 2 ^ m.toNat + g < (r + 1) * 2 ^ m.toNat := by rw [Nat.succ_mul]; omega
    _ ≤ 2 ^ 24 * 2 ^ m.toNat := Nat.mul_le_mul_right _ hr
    _ = 2 ^ (24 + m.toNat) := (Nat.pow_add ..).symm

/-- Settles O39: the encoded word is the raw word of the payload, and `decode` of that is the payload's sign extension. -/
theorem sampleRoundTrip : Obligations.SampleRoundTrip := by
  intro m x g least most hg
  obtain ⟨fits, sext⟩ := payload_spec least most
  have short := raw_lt fits hg
  rw [encodeSample_eq]
  refine ⟨(decodeSample_raw fits hg).trans sext, ?_⟩
  rw [BitVec.toNat_ofNat, Nat.mod_eq_of_lt (by omega)]
  exact raw_lt_of_mode fits hg

end Sys2Proof.Machine
end

section
/-! Acquisitions with any quiet turns of others in between (spec/41_microprogram.md R97 (1), (3), (4), (5)): each micro-step takes a
block that is known to the next that is, whatever the chip does meanwhile. -/

namespace Sys2Proof.Machine

/-! ### What the sequencer leaves to the host -/

section
variable {es : List Env} {s t : State}

/-- No turn of the sequencer touches the host. -/
theorem step_host_of_sequencer (turn : s.env.turn = .sequencer) (h : step s = .next t) : t.host = s.host := by
  obtain ⟨t', rfl, h'⟩ := step_cases h
  rw [settle_host]
  obtain ⟨_, _, host, _⟩ | ⟨u, _, position, he⟩ | ⟨host, _⟩ | ⟨foreign, _⟩ := h'
  · exact nomatch host.symm.trans turn
  · exact (effect_of_exec he).host_of_microStep position
  · exact nomatch host.symm.trans turn
  · exact nomatch foreign.symm.trans turn

theorem run_host_of_sequencer (turns : ∀ e ∈ es, e.turn = .sequencer) (h : run es s = .next t) : t.host = s.host := by
  induction es generalizing s with
  | nil => cases h; rfl
  | cons e es ih =>
    cases hst : stepWith e s <;> simp only [run, hst, reduceCtorEq] at h
    exact (ih (fun x hx => turns x (.tail _ hx)) h).trans
      (step_host_of_sequencer (s := { s with env := e }) (turns e (.head _)) hst)

end

/-! ### One micro-step of a known block -/

theorem SleepProof.any : SleepProof fun _ => True := fun _ _ => trivial

/-- The block once u.FETCH has taken the count of `m`, with `r` in RDY (R91). -/
def Block.fetched (b : Block) (m : Mode) (q : List Word) (r : Budget) : Block :=
  { b with inq := q, cnt := count m, sr := 0, rdy := r, phase := Phase.waitrdy }

section
variable {b b' : Block} {p : Params} {C C' : Chip → Prop} {d : Option Bool} {ds : List (Option Bool)} {ups downs : Nat}
variable {Q : View → Prop}

theorem SleepProof.quiet {W : Env → Prop} (hC : SleepProof C) : QuietStable W (On b p C) :=
  fun _ _ _ _ _ ⟨hb, hp, hc⟩ => ⟨hb, hp, hC _ hc⟩

/-- `Acquires.cons` from one known block to the next, with the edge of the clock between them. -/
theorem Acquires.onBlock {ups' downs' : Nat} {u : Instr} (hC : SleepProof C) (hC' : SleepProof C')
    (position : decodePhase b.phase = .ok u)
    (effect : ∀ s : State, s.block = b → s.par = p → C s.chip → (∀ l, d = some l → s.env.data = l) →
      ∃ t, Effect s u t ∧ On b' p C' t.view)
    (tail : Acquires Any (On b' p C') ds ups downs Q)
    (hups : ups' = ups + (!b.clk && b'.clk).toNat) (hdowns : downs' = downs + (b.clk && !b'.clk).toNat) :
    Acquires Any (On b p C) (d :: ds) ups' downs' Q := by
  subst hups hdowns
  refine .cons hC.quiet (fun _ ⟨hb, _⟩ => hb ▸ rfl) (fun s turn _ ⟨hb, hp, hc⟩ level => ?_) tail
  have hb : s.block = b := hb
  obtain ⟨t, he, hb', hp', hc'⟩ := effect s hb hp hc level
  have hst : step s = .next (settle s t) := by rw [step_of_microStep (hb ▸ position) turn, he.exec_eq, settled]
  have hclk : t.block.clk = b'.clk := congrArg Block.clk hb'
  exact ⟨settle s t, hst, by rw [settle_block, hclk],
    settle_view (W := Any) hC'.quiet trivial ⟨hb', hp', hc'⟩⟩

/-- `Acquires.onBlock` where the clock stays as it is. -/
theorem Acquires.level {u : Instr} (hC : SleepProof C) (hC' : SleepProof C') (position : decodePhase b.phase = .ok u)
    (effect : ∀ s : State, s.block = b → s.par = p → C s.chip → (∀ l, d = some l → s.env.data = l) →
      ∃ t, Effect s u t ∧ On b' p C' t.view)
    (tail : Acquires Any (On b' p C') ds ups downs Q) (kept : b'.clk = b.clk) :
    Acquires Any (On b p C) (d :: ds) ups downs Q :=
  .onBlock hC hC' position effect tail (by simp [kept]) (by simp [kept])

variable (active : b.act = true) (hC : SleepProof C)
include active hC

/-- u.FETCH takes the count (R91). -/
theorem acquires_fetch {m : Mode} {q : List Word} (start : b.phase = Phase.start) (head : b.inq = count m :: q)
    (tail : Acquires Any (On (b.fetched m q p.readyBudget) p C) ds ups downs Q) :
    Acquires Any (On b p C) (d :: ds) ups downs Q :=
  .level (u := .uFetch) hC hC (by rw [start]; rfl) (fun s hb hp hc _ => by
    subst hb hp
    exact ⟨_, .fetch active head (countLegal_count m), rfl, rfl, hc⟩) tail rfl

/-- u.WAITRDY counts high samples as long as RDY stands them (R92). -/
theorem acquires_high {R : Nat → Budget → Prop} (hR : CountsDown R) (wait : b.phase = Phase.waitrdy)
    (tail : ∀ r, R 0 r → Acquires Any (On { b with rdy := r } p C) ds ups downs Q) : ∀ (k : Nat) (r : Budget), R k r →
    Acquires Any (On { b with rdy := r } p C) (List.replicate k (some true) ++ ds) ups downs Q
  | 0, r, hr => tail r hr
  | k + 1, r, hr => by
    have position : decodePhase b.phase = .ok .uWaitrdy := by rw [wait]; rfl
    obtain ⟨endless, hk⟩ | ⟨n, left, hk⟩ := hR k r hr
    · refine .level hC hC position (fun s hb hp hc high => ?_) (acquires_high hR wait tail k r hk) rfl
      exact ⟨s, .waitOn (hb ▸ active) (high _ rfl) (hb ▸ endless), hb, hp, hc⟩
    · refine .level hC hC position (fun s hb hp hc high => ?_) (acquires_high hR wait tail k (.finite n) hk) rfl
      refine ⟨_, .waitMore (n := n) (hb ▸ active) (high _ rfl) (hb ▸ left), ?_, hp, hc⟩
      show { s.block with rdy := .finite n } = _
      rw [hb]

/-- u.WAITRDY gives up with the sentinel (R92). -/
theorem acquires_giveUp (wait : b.phase = Phase.waitrdy) (spent : b.rdy = .finite 0)
    (tail : Acquires Any (On { b with sr := p.sentinel, phase := Phase.emit } p C) ds ups downs Q) :
    Acquires Any (On b p C) (some true :: ds) ups downs Q :=
  .level (u := .uWaitrdy) hC hC (by rw [wait]; rfl) (fun s hb hp hc high => by
    subst hb hp
    exact ⟨_, .giveUp active (high _ rfl) spent, rfl, rfl, hc⟩) tail rfl

/-- u.WAITRDY finds the line low (R92). -/
theorem acquires_ready (hC' : SleepProof C') (hchip : ∀ c, C c → C' c.trainStart) (wait : b.phase = Phase.waitrdy)
    (tail : Acquires Any (On { b with phase := Phase.hi } p C') ds ups downs Q) :
    Acquires Any (On b p C) (some false :: ds) ups downs Q :=
  .level (u := .uWaitrdy) hC hC' (by rw [wait]; rfl) (fun s hb hp hc low => by
    subst hb hp
    exact ⟨_, .ready active (low _ rfl), rfl, rfl, hchip _ hc⟩) tail rfl

/-- u.EMIT puts `SR` in `OUTQ` and ends the acquisition (R95). -/
theorem acquires_emission (emit : b.phase = Phase.emit) (room : b.outq.length < p.outqDepth)
    (hQ : ∀ v, On { b with outq := b.outq ++ [b.sr], phase := Phase.start } p C v → Q v) :
    Acquires Any (On b p C) [d] 0 0 Q :=
  .level (u := .uEmit) hC hC (by rw [emit]; rfl) (fun s hb hp hc _ => by
    subst hb hp
    exact ⟨_, .emit active room, rfl, rfl, hc⟩) (.nil hC.quiet hQ) rfl

end

/-! ### A chip that is never ready (R97 (3), (4)) -/

theorem sentinelLevels_eq (k : Nat) :
    sentinelLevels k = none :: (List.replicate k (some true) ++ [some true, none]) := by
  simp [sentinelLevels, List.replicate_succ']

theorem sentinelLevels_length (k : Nat) : (sentinelLevels k).length = 1 + (k + 1) + 1 := by
  simp [sentinelLevels]
  omega

/-- The block once a spent budget has put the sentinel in `OUTQ` in place of the acquisition of `m` (R97 (3)). -/
def Block.gaveUp (b : Block) (m : Mode) (q : List Word) (sentinel : Word) : Block :=
  { b with
    inq := q, cnt := count m, sr := sentinel, rdy := .finite 0, outq := b.outq ++ [sentinel], phase := Phase.start }

section
variable {b : Block} {p : Params} {C : Chip → Prop} {m : Mode} {q : List Word}

theorem acquires_sentinel {k : Nat} (active : b.act = true) (start : b.phase = Phase.start) (head : b.inq = count m :: q)
    (room : b.outq.length < p.outqDepth) (budget : p.readyBudget = .finite k) :
    Acquires Any (On b p fun _ => True) (sentinelLevels k) 0 0 (On (b.gaveUp m q p.sentinel) p fun _ => True) := by
  rw [sentinelLevels_eq]
  refine acquires_fetch active .any start head
    (acquires_high (b := b.fetched m q p.readyBudget) active .any countsDown_finite rfl (fun r spent => ?_) k _ budget)
  subst spent
  exact acquires_giveUp active .any rfl rfl (acquires_emission active .any rfl room fun _ => id)

/-- The endless wait keeps the block as it is (R97 (4)). -/
theorem acquires_endless (active : b.act = true) (wait : b.phase = Phase.waitrdy) (endless : b.rdy = .unbounded) (k : Nat) :
    Acquires Any (On b p fun _ => True) (List.replicate k (some true)) 0 0 (On b p fun _ => True) := by
  have waits := acquires_high (p := p) (Q := On b p fun _ => True) active .any countsDown_unbounded wait
    (fun r hr => .nil SleepProof.any.quiet fun v hv => by rwa [hr, ← endless] at hv) k b.rdy endless
  rwa [List.append_nil] at waits

end

/-- Settles O48: the fetch, the wait that spends the budget, and the emission of the sentinel, each by its micro-step. -/
theorem silentChipGivesSentinel : Obligations.SilentChipGivesSentinel := by
  intro s es m k q active start low head room budget sees quiet
  obtain ⟨hups, hdowns, t, hrun, hb, hp, -⟩ :=
    acquires_sentinel active start head room budget es s ⟨rfl, rfl, trivial⟩ (fun _ _ => trivial) sees quiet
  have hb : t.block = s.block.gaveUp m q s.par.sentinel := hb
  refine ⟨(sequencerSees_length sees).trans (sentinelLevels_length k), hups, hdowns, t, hrun, ?_⟩
  rw [hb]
  exact ⟨rfl, rfl, rfl, low, active, rfl, hp, fun turns => run_host_of_sequencer turns hrun⟩

/-- Settles O49: the wait alone, and the fetch before it. -/
theorem unboundedWaitEmitsNothing : Obligations.UnboundedWaitEmitsNothing := by
  constructor
  · intro s es k active wait endless sees quiet
    obtain ⟨hups, -, t, hrun, hb, -⟩ :=
      acquires_endless active wait endless k es s ⟨rfl, rfl, trivial⟩ (fun _ _ => trivial) sees quiet
    exact ⟨hups, t, hrun, hb⟩
  · intro s es m k q active start head budget sees quiet
    have waits := acquires_fetch (d := none) (p := s.par) active .any start head
      (acquires_endless (b := s.block.fetched m q s.par.readyBudget) active rfl budget k)
    obtain ⟨hups, -, t, hrun, hb, -⟩ := waits es s ⟨rfl, rfl, trivial⟩ (fun _ _ => trivial) sees quiet
    exact ⟨hups, t, hrun, by rw [← budget]; exact hb⟩

/-! ### A train of free samples (R97 (1)) -/

theorem acquisitionLevels_eq (k : Nat) (bits : List Bool) : acquisitionLevels k bits =
    none :: (List.replicate k (some true) ++ some false :: ((bits.flatMap fun b => [none, some b]) ++ [none])) := by
  simp [acquisitionLevels]

theorem acquisitionLevels_length (k : Nat) (bits : List Bool) :
    (acquisitionLevels k bits).length = 1 + (k + 1) + 2 * bits.length + 1 := by
  simp [acquisitionLevels]
  omega

/-- While samples are to come, they are free. -/
def FreeFor (bits : List Bool) (c : Chip) : Prop := bits ≠ [] → samplesFree c

theorem FreeFor.sleepProof (bits : List Bool) : SleepProof (FreeFor bits) := fun _ _ _ => .inr (.inr rfl)

/-- With the clock low in a train, or behind it when no bits are left: `bits` are to come, the others of the word `n` in SR. -/
structure Drawn (b : Block) (bits : List Bool) (n : Nat) : Prop where
  active : b.act = true
  low    : b.clk = false
  phase  : b.phase = if bits = [] then Phase.emit else Phase.hi
  cnt    : b.cnt.toNat = bits.length
  word   : b.sr.toNat * 2 ^ bits.length + rawOf bits = n

/-- The block a pulse leaves that samples `x` (R93, R94). -/
def Block.pulsed (b : Block) (x : Bool) : Block :=
  { b with clk := false, sr := shiftIn b.sr x, phase := if b.cnt = 1 then Phase.emit else Phase.hi, cnt := b.cnt - 1 }

section
variable {b : Block} {p : Params} {x : Bool} {bits : List Bool} {n : Nat}

theorem Drawn.cnt_eq_one_iff (h : Drawn b (x :: bits) n) : b.cnt = 1 ↔ bits = [] := by
  have hcnt : b.cnt.toNat = bits.length + 1 := h.cnt
  rw [← BitVec.toNat_inj, hcnt, ← List.length_eq_zero_iff]
  simp

theorem Drawn.cnt_ne_zero (h : Drawn b (x :: bits) n) : b.cnt ≠ 0 := fun zero => by
  have hcnt := h.cnt
  simp [zero] at hcnt

/-- The sample of a pulse goes under those taken before it. -/
theorem Drawn.shiftIn_word (h : Drawn b (x :: bits) n) (hn : n < 2 ^ 32) :
    (shiftIn b.sr x).toNat * 2 ^ bits.length + rawOf bits = n := by
  have hsum : (2 * b.sr.toNat + x.toNat) * 2 ^ bits.length + rawOf bits = n := by
    rw [← h.word, List.length_cons, Nat.pow_succ, rawOf]
    ring
  have hle : 2 * b.sr.toNat + x.toNat ≤ (2 * b.sr.toNat + x.toNat) * 2 ^ bits.length :=
    Nat.le_mul_of_pos_right _ (Nat.two_pow_pos _)
  rw [shiftIn_toNat, Nat.mod_eq_of_lt (by omega), hsum]

theorem Drawn.pulsed (h : Drawn b (x :: bits) n) (hn : n < 2 ^ 32) : Drawn (b.pulsed x) bits n where
  active := h.active
  low := rfl
  phase := if_congr h.cnt_eq_one_iff rfl rfl
  cnt := by
    have hdec := decrement_toNat (free := 0) h.cnt_ne_zero
    rw [decrement, if_neg h.cnt_ne_zero, h.cnt] at hdec
    exact hdec
  word := h.shiftIn_word hn

/-- The chip after a pulse with more to come presents free samples still. -/
theorem FreeFor.pulse {c : Chip} (hc : FreeFor (x :: bits) c) (h : Drawn b (x :: bits) n) (v : BitVec 24) :
    FreeFor bits (c.pulse (decide (b.cnt = 1)) v) := fun more => by
  rw [decide_eq_false fun last => more (h.cnt_eq_one_iff.1 last)]
  exact samplesFree_pulse v (hc (List.cons_ne_nil _ _))

/-- One pulse: u.HI and u.LO (R93, R94). -/
theorem acquires_pulse {ds : List (Option Bool)} {ups downs : Nat} {Q : View → Prop} (h : Drawn b (x :: bits) n)
    (tail : Acquires Any (On (b.pulsed x) p (FreeFor bits)) ds ups downs Q) :
    Acquires Any (On b p (FreeFor (x :: bits))) (none :: some x :: ds) (ups + 1) (downs + 1) Q := by
  have hi : b.phase = Phase.hi := h.phase
  have low := h.low
  have trailing : Acquires Any (On { b with clk := true, phase := Phase.lo } p (FreeFor (x :: bits))) (some x :: ds) ups
      (downs + 1) Q := by
    refine .onBlock (u := .uLo) (FreeFor.sleepProof _) (FreeFor.sleepProof _) rfl (fun s hb hp hc level => ?_) tail
      (by simp) (by simp [Block.pulsed])
    have active : s.block.act = true := hb ▸ h.active
    have sample : samplePulse s = x := (samplePulse_of_samplesFree (hc (List.cons_ne_nil _ _))).trans (level _ rfl)
    have cnt : s.block.cnt = b.cnt := hb ▸ rfl
    refine ⟨_, effect_uLo active, ?_, hp, ?_⟩
    · show { s.block with
        sr := shiftIn s.block.sr (samplePulse s), clk := false
        phase := if s.block.cnt = 1 then Phase.emit else Phase.hi, cnt := decrement s.env.free s.block.cnt } = _
      rw [hb, sample, decrement, if_neg h.cnt_ne_zero]
      rfl
    · show FreeFor bits (s.chip.pulse (decide (s.block.cnt = 1)) s.env.conv)
      rw [cnt]
      exact hc.pulse h _
  refine .onBlock (u := .uHi) (FreeFor.sleepProof _) (FreeFor.sleepProof _) (by rw [hi]; rfl) (fun s hb hp hc _ => ?_) trailing
    (by simp [low]) (by simp [low])
  subst hb hp
  exact ⟨_, .hi h.active, rfl, rfl, hc⟩

/-- Back in START with the word of value `n` in OUTQ, all that a train does not concern as in `b`. -/
def Delivered (b : Block) (p : Params) (n : Nat) (v : View) : Prop :=
  ∃ w : Word, w.toNat = n ∧ Unmoved b.mode b.inq (b.outq ++ [w]) p v ∧ v.block.phase = Phase.start ∧ v.block.clk = false

/-- A train takes its samples pulse by pulse and emits their word (R94, R95). -/
theorem acquires_samples (hn : n < 2 ^ 32) : ∀ (bits : List Bool) (b : Block), Drawn b bits n →
    b.outq.length < p.outqDepth →
    Acquires Any (On b p (FreeFor bits)) ((bits.flatMap fun x => [none, some x]) ++ [none]) bits.length bits.length
      (Delivered b p n)
  | [], b, h, room => by
    have word : b.sr.toNat = n := by simpa [rawOf] using h.word
    refine acquires_emission h.active (FreeFor.sleepProof _) h.phase room fun v ⟨hb, hp, _⟩ => ⟨b.sr, word, ?_⟩
    rw [Unmoved, hb, hp]
    exact ⟨⟨h.active, rfl, rfl, rfl, rfl⟩, rfl, h.low⟩
  | x :: bits, b, h, room => acquires_pulse h (acquires_samples hn bits (b.pulsed x) (h.pulsed hn) room)

/-- In HI, once the line was low, all the bits are to come. -/
theorem drawn_of_ready {m : Mode} {q : List Word} {r : Budget} (active : b.act = true) (low : b.clk = false)
    (hbits : bits.length = 24 + m.toNat) : Drawn { b.fetched m q r with phase := Phase.hi } bits (rawOf bits) where
  active := active
  low := low
  phase := by
    have some_left : bits ≠ [] := List.ne_nil_of_length_pos (by omega)
    rw [if_neg some_left]
  cnt := (count_toNat m).trans hbits.symm
  word := by simp [Block.fetched]

/-- The whole acquisition, from START back to START. -/
theorem acquires_raw {m : Mode} {q : List Word} {k : Nat} (active : b.act = true) (start : b.phase = Phase.start)
    (low : b.clk = false) (head : b.inq = count m :: q) (room : b.outq.length < p.outqDepth)
    (hk : (Budget.finite k).atMost p.readyBudget = true) (hbits : bits.length = 24 + m.toNat) :
    Acquires Any (On b p samplesFree) (acquisitionLevels k bits) bits.length bits.length
      (Delivered { b with inq := q } p (rawOf bits)) := by
  have sleepProof : SleepProof samplesFree := fun _ _ => .inr (.inr rfl)
  have short : rawOf bits < 2 ^ 32 := (rawOf_lt_word hbits).trans (by decide)
  rw [acquisitionLevels_eq]
  refine acquires_fetch active sleepProof start head
    (acquires_high (b := b.fetched m q p.readyBudget) active sleepProof countsDown_atMost rfl (fun r _ => ?_) k _ hk)
  exact acquires_ready active sleepProof (FreeFor.sleepProof bits) (fun _ hc _ => hc) rfl
    (acquires_samples short bits _ (drawn_of_ready active low hbits) room)

end

/-- Settles O47: the fetch, the ready wait and the pulses of the train, the bits sampled so far in SR after each. -/
theorem acquisitionEmitsRawWord : Obligations.AcquisitionEmitsRawWord := by
  intro s es m k bits q active start low head room free hk hbits sees quiet
  obtain ⟨hups, hdowns, t, hrun, w, hw, ⟨tact, tmode, tinq, tout, tpar⟩, tphase, tclk⟩ :=
    acquires_raw active start low head room hk hbits es s ⟨rfl, rfl, free⟩ (fun _ _ => trivial) sees quiet
  have fits : w.toNat < 2 ^ (24 + m.toNat) := hw ▸ hbits ▸ rawOf_lt bits
  exact ⟨(sequencerSees_length sees).trans (hbits ▸ acquisitionLevels_length k bits), hups.trans hbits, hdowns.trans hbits,
    t, w, hrun, hw, fits, tout, tinq, tphase, tclk, tact, tmode, tpar, fun turns => run_host_of_sequencer turns hrun⟩

end Sys2Proof.Machine
end
